-- ==== Sys2Proof/Word.lean ====
section
/-! DEFINITION. The word types of FPARSE: what the spec treats as bits (00_scope.md §6, 10_state.md). -/

namespace Sys2Proof

/-- `u8`: one byte of the frame, bit 7 the most significant (00_scope.md §6). -/
abbrev Byte := BitVec 8

/-- `LEN`, the frame length in bytes, `LEN_W = 16` bits (00_scope.md R3). -/
abbrev Len := BitVec 16

/-- `in_hdr`, the header window of 94 bytes: byte `i` in bits `8i+7 : 8i` (10_state.md R15, 30_encoding.md R34). -/
abbrev Window := BitVec 752

/-- A MAC address packed with its first wire byte in bits 47:40 (10_state.md R10). -/
abbrev Mac := BitVec 48

/-- An IPv4 address packed with its first wire byte in bits 31:24 (10_state.md R11). -/
abbrev Ipv4Addr := BitVec 32

/-- A transport offset, `l4_offset`: 7 bits (10_state.md R12, 42_ipv4.md R59). -/
abbrev Offset := BitVec 7

/-- `out_res`, the packed result record: `RES_W = 288` bits (30_encoding.md R35). -/
abbrev RecordBits := BitVec 288

end Sys2Proof
end

