-- ==== Sys2Proof/Config.lean ====
section
/-! DEFINITION. What an implementation fixes (00_scope.md §4) and the values the spec leaves free
(93_implementation_defined.md U4, U5). The free values are opaque: nothing in Lean can evaluate one or prove a value of it. -/

namespace Sys2Proof.Config

/-- `HDR_BYTES`: the bytes of the frame the block can read (00_scope.md R4). -/
abbrev hdrBytes : Nat := 94

/-- The largest frame length that can be presented (00_scope.md R3). -/
abbrev maxFrameLen : Nat := 65535

/-- The largest `PIPE_DEPTH` (00_scope.md §4, 92_eei_decisions.md D12). -/
abbrev maxPipeDepth : Nat := 3

/-- The reference value of `PIPE_DEPTH` (92_eei_decisions.md D12). `State.reset` has this depth; DESIGN CHOICE, log 2. -/
abbrev refPipeDepth : Nat := 1

/-- Free value: `out_res` in a cycle with `out_valid = 0` (70_reset_and_hazards.md R90, U4), the `n`-th draw. Log 4. -/
opaque freeRecord : Nat → RecordBits

/-- Free value: the length part of an unspecified stage payload (70_reset_and_hazards.md R87, R89, U5). Log 5. -/
opaque freeLen : Nat → Len

/-- Free value: the window part of an unspecified stage payload (70_reset_and_hazards.md R87, R89, U5). Log 5. -/
opaque freeWindow : Nat → Window

end Sys2Proof.Config
end

