-- ==== Sys2Proof/Syntax.lean ====
section
/-! DEFINITION. The operations of the dispatch tree, one constructor per row of spec/opcode_table.json, and the input
transaction they decode. Operands are those of each operation's pseudocode. -/

namespace Sys2Proof

/-- The operands of one transaction: `LEN` and the header window, one snapshot (10_state.md §1, 20_memory.md R28). -/
structure Transaction where
  len : Len
  hdr : Window
deriving DecidableEq, Repr

/-- The operations of FPARSE (30_encoding.md §4). `b0` is IPv4 byte 0 and `off` the transport offset, as the pseudocode of
each rule passes them. -/
inductive Instr where
  /-- `DECODE`: take a transaction and start its decode (40_decode_top.md R45). -/
  | decode
  /-- `ETH_SHORT` (41_ethernet.md R49). -/
  | ethShort
  /-- `ETH_HDR` (41_ethernet.md R50). -/
  | ethHdr
  /-- `ETH_NOTIP` (41_ethernet.md R51). -/
  | ethNotIp
  /-- `IP_EMPTY` (42_ipv4.md R54). -/
  | ipEmpty
  /-- `IP_BADVER(b0)` (42_ipv4.md R55). -/
  | ipBadVer (b0 : Byte)
  /-- `IP_BADIHL(b0)` (42_ipv4.md R56). -/
  | ipBadIhl (b0 : Byte)
  /-- `IP_TRUNC(b0)` (42_ipv4.md R57). -/
  | ipTrunc (b0 : Byte)
  /-- `IP_HDR(b0, off)` (42_ipv4.md R58). -/
  | ipHdr (b0 : Byte) (off : Offset)
  /-- `TCP_TRUNC` (43_transport.md R64). -/
  | tcpTrunc
  /-- `TCP_HDR(off)` (43_transport.md R65). -/
  | tcpHdr (off : Offset)
  /-- `UDP_TRUNC` (43_transport.md R66). -/
  | udpTrunc
  /-- `UDP_HDR(off)` (43_transport.md R67). -/
  | udpHdr (off : Offset)
  /-- `L4_UNSUP` (43_transport.md R68). -/
  | l4Unsup
deriving DecidableEq, Repr

end Sys2Proof
end

