-- ==== Sys2Proof/Machine/Fields.lean ====
section
/-! DEFINITION. Fields of IPv4 byte 0, the transport offset, and the bytes of the window: the bit-field and byte-order
helpers that the decoder and the meanings share. -/

namespace Sys2Proof

/-- `ip_version`: the high nibble of IPv4 byte 0 (30_encoding.md R37). -/
def ipVersion (b0 : Byte) : BitVec 4 := b0.extractLsb' 4 4

/-- `ip_ihl`: the low nibble of IPv4 byte 0 (30_encoding.md R37). -/
def ipIhl (b0 : Byte) : BitVec 4 := b0.extractLsb' 0 4

/-- `hlen = IHL * 4`, that is `ip_ihl ++ 0b00` (30_encoding.md R38). -/
def headerLength (ihl : BitVec 4) : BitVec 6 := ihl ++ 0#2

/-- `off = 14 + 4 * zext_7(IHL)` (40_decode_top.md R45, 42_ipv4.md R59). -/
def transportOffset (ihl : BitVec 4) : Offset := 14#7 + 4#7 * ihl.setWidth 7

/-- The eleven transport offsets 34, 38, ..., 74 (10_state.md R12, 42_ipv4.md R59). -/
def isTransportOffset (off : Offset) : Bool :=
  decide (34 ≤ off.toNat ∧ off.toNat ≤ 74 ∧ off.toNat % 4 = 2)

/-- The EtherType that selects IPv4, fixed in the logic (10_state.md R14, 41_ethernet.md R52). -/
abbrev etherTypeIpv4 : BitVec 16 := 0x0800#16

/-- The IP version that is decoded (42_ipv4.md R55). -/
abbrev versionIpv4 : BitVec 4 := 4#4

/-- The least legal IHL (42_ipv4.md R56). -/
abbrev minIhl : Nat := 5

/-- The protocol number of TCP (43_transport.md R63). -/
abbrev protoTcp : Byte := 6#8

/-- The protocol number of UDP (43_transport.md R63). -/
abbrev protoUdp : Byte := 17#8

/-- The Ethernet header length, which is the IPv4 base (41_ethernet.md R49, R52). -/
abbrev ethHeaderLen : Nat := 14

/-- The minimal TCP header length (43_transport.md R64). -/
abbrev tcpHeaderLen : Nat := 20

/-- The UDP header length (43_transport.md R66). -/
abbrev udpHeaderLen : Nat := 8

/-- `F[i]` as the port carries it: `in_hdr[8i+7 : 8i]` (30_encoding.md R34). -/
def Transaction.byte (t : Transaction) (i : Nat) : Byte := t.hdr.extractLsb' (8 * i) 8

/-- The value of a byte list with its first byte least significant: the lanes of the port (30_encoding.md R34). -/
def lanesValue : List Byte → Nat
  | [] => 0
  | b :: bs => b.toNat + 256 * lanesValue bs

/-- The window that carries the first 94 of the given bytes, every lane past them 0 (70_reset_and_hazards.md R95 duty 1;
the lanes at and past `LEN` are don't-care, 20_memory.md R26). -/
def windowOfBytes (bs : List Byte) : Window := BitVec.ofNat 752 (lanesValue (bs.take Config.hdrBytes))

end Sys2Proof
end

