-- ==== Sys2Proof/WellFormed.lean ====
section
/-! DEFINITION. The well-formed operations: operands that the dispatch tree can pass, and the guard column of
spec/opcode_table.json. -/

namespace Sys2Proof

/-- The operands an operation can be given: what the `match` column of its row says of `b0`, and `off` as rule R59
computes it (30_encoding.md R40, R41; 42_ipv4.md R59). -/
def Instr.wellFormed : Instr → Bool
  | .decode => true
  | .ethShort => true
  | .ethHdr => true
  | .ethNotIp => true
  | .ipEmpty => true
  | .ipBadVer b0 => decide (ipVersion b0 ≠ versionIpv4)
  | .ipBadIhl b0 => decide (ipVersion b0 = versionIpv4 ∧ (ipIhl b0).toNat < minIhl)
  | .ipTrunc b0 => decide (ipVersion b0 = versionIpv4 ∧ minIhl ≤ (ipIhl b0).toNat)
  | .ipHdr b0 off =>
      decide (ipVersion b0 = versionIpv4 ∧ minIhl ≤ (ipIhl b0).toNat ∧ off = transportOffset (ipIhl b0))
  | .tcpTrunc => true
  | .tcpHdr off => isTransportOffset off
  | .udpTrunc => true
  | .udpHdr off => isTransportOffset off
  | .l4Unsup => true

/-- What the dispatch sees beside an operation's own operands: the frame length, the EtherType, the protocol and the
transport offset. Each operation's encoding uses the ones its row names. -/
structure Context where
  len : Len
  ethType : BitVec 16
  proto : Byte
  off : Offset
deriving DecidableEq, Repr

/-- The guard of an operation's row, with the conditions under which its place in the tree is reached
(30_encoding.md R39, R40, R41). Comparisons are on unbounded unsigned integers (00_scope.md §6). -/
def Instr.guard (c : Context) : Instr → Bool
  | .decode => true
  | .ethShort => decide (c.len.toNat < ethHeaderLen)
  | .ethHdr => decide (ethHeaderLen ≤ c.len.toNat)
  | .ethNotIp => decide (ethHeaderLen ≤ c.len.toNat ∧ c.ethType ≠ etherTypeIpv4)
  | .ipEmpty => decide (ethHeaderLen ≤ c.len.toNat ∧ c.len.toNat < ethHeaderLen + 1)
  | .ipBadVer _ => decide (ethHeaderLen + 1 ≤ c.len.toNat)
  | .ipBadIhl _ => decide (ethHeaderLen + 1 ≤ c.len.toNat)
  | .ipTrunc b0 =>
      decide (ethHeaderLen + 1 ≤ c.len.toNat ∧ c.len.toNat < (transportOffset (ipIhl b0)).toNat)
  | .ipHdr _ off => decide (off.toNat ≤ c.len.toNat)
  | .tcpTrunc =>
      isTransportOffset c.off && decide (c.off.toNat ≤ c.len.toNat ∧ c.len.toNat < c.off.toNat + tcpHeaderLen)
  | .tcpHdr off => decide (off.toNat + tcpHeaderLen ≤ c.len.toNat)
  | .udpTrunc =>
      isTransportOffset c.off && decide (c.off.toNat ≤ c.len.toNat ∧ c.len.toNat < c.off.toNat + udpHeaderLen)
  | .udpHdr off => decide (off.toNat + udpHeaderLen ≤ c.len.toNat)
  | .l4Unsup =>
      isTransportOffset c.off &&
        decide (c.off.toNat ≤ c.len.toNat ∧ c.proto ≠ protoTcp ∧ c.proto ≠ protoUdp)

/-- The `terminal` column: the operations that end the decode (40_decode_top.md R45). -/
def Instr.terminal : Instr → Bool
  | .decode => false
  | .ethShort => true
  | .ethHdr => false
  | .ethNotIp => true
  | .ipEmpty => true
  | .ipBadVer _ => true
  | .ipBadIhl _ => true
  | .ipTrunc _ => true
  | .ipHdr _ _ => false
  | .tcpTrunc => true
  | .tcpHdr _ => true
  | .udpTrunc => true
  | .udpHdr _ => true
  | .l4Unsup => true

end Sys2Proof
end

