-- ==== Sys2Proof/Decode.lean ====
section
/-! DEFINITION. The dispatch tree as a decoder: which operation a selector and its length guard select
(30_encoding.md §4, R39 to R43), and the encoder back from an operation to the selector that selects it. -/

namespace Sys2Proof

/-- What selects an operation: the selector field of the layer that is reached, with `LEN`
(the `selector` column of spec/opcode_table.json). -/
inductive Selector where
  /-- The valid bit of an accepted transaction: `in_valid = 1` in a cycle with `rst = 0`, carried with it (R45, R85, R87). -/
  | transaction (valid : Bool)
  /-- Layer 2: no field, `LEN` alone (R39). -/
  | layer2 (len : Len)
  /-- After `ETH_HDR`: `eth_type` (R39; and `IP_EMPTY`, R40). -/
  | ethType (type : BitVec 16) (len : Len)
  /-- Layer 3: IPv4 byte 0 (R40). -/
  | ipv4 (b0 : Byte) (len : Len)
  /-- Layer 4: `ip_proto`, with the transport offset (R41). -/
  | proto (proto : Byte) (off : Offset) (len : Len)
deriving DecidableEq, Repr

/-- Why a selector selects no operation. -/
inductive Reject where
  /-- No accepted transaction at the output: there is nothing to decode in this cycle (R85, R87, R92). -/
  | noTransaction
  /-- `eth_type` is 0x0800 and IPv4 byte 0 is present: that byte selects, this field does not (R39, R52). -/
  | layer3
  /-- No frame presents this selector: its layer is reached only by longer frames, or `off` is none of the eleven
  transport offsets (R39 to R41, R59). -/
  | impossible
deriving DecidableEq, Repr

/-- Layer 2 (R39). -/
def decodeLayer2 (len : Len) : Except Reject Instr :=
  if len.toNat < ethHeaderLen then .ok .ethShort else .ok .ethHdr

/-- After `ETH_HDR` (R39, and the first row of R40). -/
def decodeEthType (type : BitVec 16) (len : Len) : Except Reject Instr :=
  if len.toNat < ethHeaderLen then .error .impossible
  else if type ≠ etherTypeIpv4 then .ok .ethNotIp
  else if len.toNat < ethHeaderLen + 1 then .ok .ipEmpty
  else .error .layer3

/-- Layer 3, in the order of 42_ipv4.md R60: version, IHL, length (R40). -/
def decodeIpv4 (b0 : Byte) (len : Len) : Except Reject Instr :=
  if len.toNat < ethHeaderLen + 1 then .error .impossible
  else if ipVersion b0 ≠ versionIpv4 then .ok (.ipBadVer b0)
  else if (ipIhl b0).toNat < minIhl then .ok (.ipBadIhl b0)
  else if len.toNat < (transportOffset (ipIhl b0)).toNat then .ok (.ipTrunc b0)
  else .ok (.ipHdr b0 (transportOffset (ipIhl b0)))

/-- Layer 4 (R41, 43_transport.md R63). -/
def decodeProto (proto : Byte) (off : Offset) (len : Len) : Except Reject Instr :=
  if isTransportOffset off = false ∨ len.toNat < off.toNat then .error .impossible
  else if proto = protoTcp then
    if len.toNat < off.toNat + tcpHeaderLen then .ok .tcpTrunc else .ok (.tcpHdr off)
  else if proto = protoUdp then
    if len.toNat < off.toNat + udpHeaderLen then .ok .udpTrunc else .ok (.udpHdr off)
  else .ok .l4Unsup

/-- The decoder: total on every selector, rejecting by name. No value that a frame can present is rejected but for the
way on to layer 3 (30_encoding.md R43). -/
def decode : Selector → Except Reject Instr
  | .transaction true => .ok .decode
  | .transaction false => .error .noTransaction
  | .layer2 len => decodeLayer2 len
  | .ethType type len => decodeEthType type len
  | .ipv4 b0 len => decodeIpv4 b0 len
  | .proto proto off len => decodeProto proto off len

/-- The encoder: the selector that selects an operation, in a context that meets its guard (R39 to R41). -/
def encode (c : Context) : Instr → Selector
  | .decode => .transaction true
  | .ethShort => .layer2 c.len
  | .ethHdr => .layer2 c.len
  | .ethNotIp => .ethType c.ethType c.len
  | .ipEmpty => .ethType etherTypeIpv4 c.len
  | .ipBadVer b0 => .ipv4 b0 c.len
  | .ipBadIhl b0 => .ipv4 b0 c.len
  | .ipTrunc b0 => .ipv4 b0 c.len
  | .ipHdr b0 _ => .ipv4 b0 c.len
  | .tcpTrunc => .proto protoTcp c.off c.len
  | .tcpHdr off => .proto protoTcp off c.len
  | .udpTrunc => .proto protoUdp c.off c.len
  | .udpHdr off => .proto protoUdp off c.len
  | .l4Unsup => .proto c.proto c.off c.len

/-- The selector that the bits of a table row stand for: no bits is a frame of length 0 at layer 2; the byte 1 is
`in_valid`; any other byte is `ip_proto`, and 16 bits are `eth_type`, each in the shortest frame that reaches its layer
(`LEN` 34 and 14), which is the frame whose later bytes are absent. DESIGN CHOICE, log 18. -/
def tableSelector (nbits w : Nat) : Selector :=
  if nbits = 0 then .layer2 0#16
  else if nbits ≤ 8 then
    if w % 256 = 1 then .transaction true else .proto (BitVec.ofNat 8 w) 34#7 34#16
  else .ethType (BitVec.ofNat 16 w) 14#16

/-- The operation the decoder gives for the bits of a row of spec/opcode_table.json. -/
def decodeTableWord (nbits w : Nat) : Option Instr :=
  match decode (tableSelector nbits w) with
  | .ok i => some i
  | .error _ => none

end Sys2Proof
end

