-- ==== Sys2Proof/Machine/State.lean ====
section
/-! DEFINITION. The state of FPARSE as plain data (10_state.md), the reasons a step can stop, and the machine right after
reset (70_reset_and_hazards.md R89). -/

namespace Sys2Proof.Machine

/-- `l2_status` (10_state.md R6). -/
inductive L2Status where
  | absent
  | present
deriving DecidableEq, Repr

/-- `l3_status` (10_state.md R7). The reserved code 7 has no constructor: it is never produced (30_encoding.md R43). -/
inductive L3Status where
  | none
  | notIpv4
  | present
  | badVersion
  | badIhl
  | truncHdr
  | truncEmpty
deriving DecidableEq, Repr

/-- `l4_status` (10_state.md R8). The reserved codes 6 and 7 have no constructor (30_encoding.md R43). -/
inductive L4Status where
  | none
  | tcp
  | udp
  | tcpTrunc
  | udpTrunc
  | unsupProto
deriving DecidableEq, Repr

/-- `err_class` (10_state.md R9). -/
inductive ErrClass where
  | none
  | tooShort
  | unsupported
  | malformed
deriving DecidableEq, Repr

/-- The result record `RES`, field by field (10_state.md R6 to R13). Its packing into 288 bits is `Record.pack` (R35). -/
structure Record where
  l2Status : L2Status
  l3Status : L3Status
  l4Status : L4Status
  errClass : ErrClass
  l4Offset : Offset
  ethDst : Mac
  ethSrc : Mac
  ethType : BitVec 16
  ipVersion : BitVec 4
  ipIhl : BitVec 4
  ipTtl : Byte
  ipProto : Byte
  ipSrc : Ipv4Addr
  ipDst : Ipv4Addr
  l4Sport : BitVec 16
  l4Dport : BitVec 16
  tcpFlags : Byte
  udpLen : BitVec 16
  udpCsum : BitVec 16
deriving DecidableEq, Repr

/-- The record at the start of every `DECODE`: every field 0 (10_state.md R5). -/
def Record.zero : Record where
  l2Status := .absent
  l3Status := .none
  l4Status := .none
  errClass := .none
  l4Offset := 0#7
  ethDst := 0#48
  ethSrc := 0#48
  ethType := 0#16
  ipVersion := 0#4
  ipIhl := 0#4
  ipTtl := 0#8
  ipProto := 0#8
  ipSrc := 0#32
  ipDst := 0#32
  l4Sport := 0#16
  l4Dport := 0#16
  tcpFlags := 0#8
  udpLen := 0#16
  udpCsum := 0#16

/-- The level of a control input: the spec allows an unknown value there only to refuse it
(70_reset_and_hazards.md R97, U8). -/
inductive Level where
  | low
  | high
  | unknown
deriving DecidableEq, Repr

/-- The values on the input ports in one cycle (10_state.md R15, 30_encoding.md R34). `txn` holds `in_len` and `in_hdr`. -/
structure PortIn where
  rst : Level
  inValid : Level
  txn : Transaction
deriving DecidableEq, Repr

/-- The ports when the host presents nothing and no reset (70_reset_and_hazards.md R99, row idle). -/
def PortIn.idle : PortIn := ⟨.low, .low, ⟨0#16, 0#752⟩⟩

/-- One pipeline stage register `S[k]`: the valid bit `v[k]` and the payload `d[k]` (10_state.md R16). -/
structure Stage where
  v : Bool
  d : Transaction
  /-- The stage holds a transaction that was accepted (70_reset_and_hazards.md R85), and not what stood there at power-up, whose
  record is meaningless (R92, U7). The model's own; no operation reads it but to tell the two apart; log 12. -/
  accepted : Bool
deriving DecidableEq, Repr

/-- Where the decode stands: the layer base is the only position state of the hardware (10_state.md R14); `start` and `edge`
bound a cycle of the model (log 1). -/
inductive Point where
  /-- The start of a cycle: the output side is about to present. -/
  | start
  /-- Layer base 0: `DECODE` has started, the Ethernet operations are next (R39). -/
  | layer2
  /-- Layer base 14: `ETH_HDR` has run (R39, R40). -/
  | afterEth
  /-- Layer base `off`: `IP_HDR` has run (R41). -/
  | layer4
  /-- The outputs of this cycle are settled; the clock edge is next (R87). -/
  | edge
deriving DecidableEq, Repr

/-- One entry of the observation of a run: a record presented with `out_valid = 1`, with the transaction it decodes and the
cycle it was presented in (70_reset_and_hazards.md R100; log 8). -/
structure Presented where
  cycle : Nat
  txn : Transaction
  record : RecordBits
deriving DecidableEq, Repr

/-- The state of FPARSE (10_state.md), with the host's port values and the observation of the run.
`PIPE_DEPTH` is the number of stages. -/
structure State where
  /-- The stage registers `S[0] .. S[P-1]`, in this order (10_state.md R16). -/
  stages : List Stage
  /-- The input ports in this cycle (10_state.md R15). -/
  port : PortIn
  /-- The input ports in the coming cycles, driven by the host; idle after the last (70_reset_and_hazards.md R99; log 7). -/
  pending : List PortIn
  /-- How far this cycle's decode has come (10_state.md R14; log 1). -/
  point : Point
  /-- The snapshot of operands under decode (20_memory.md R28). -/
  txn : Transaction
  /-- The result record under construction (10_state.md R5). -/
  res : Record
  /-- Output port `out_valid`, once settled in this cycle (10_state.md R15). -/
  outValid : Bool
  /-- Output port `out_res`, once settled in this cycle (10_state.md R15). -/
  outRes : RecordBits
  /-- A reset cycle has ended since power-up (70_reset_and_hazards.md R92, R100; log 8). -/
  resetSeen : Bool
  /-- The observation of the run (70_reset_and_hazards.md R100; log 8). -/
  observed : List Presented
  /-- The number of this cycle (70_reset_and_hazards.md, opening; log 8). -/
  cycle : Nat
  /-- The index of the next free value (log 9). -/
  freeCount : Nat
deriving DecidableEq, Repr

/-- Why the machine stops with a fault. -/
inductive Fault where
  /-- A `MemRead(a, n)` with `a + n > LEN` (00_scope.md §6, U11), raised by the guarded reads of the layer operations.
  Safe: the hardware never makes such a read, and the guards keep a run from it. -/
  | pastFrame
  /-- A `MemRead` inside the frame but past byte 93, which FPARSE cannot reach (20_memory.md R17, 00_scope.md R4), raised by
  the same reads. Safe: only an operand `off` that no frame gives leads there. -/
  | pastWindow
deriving DecidableEq, Repr

/-- Why the machine refuses a step. -/
inductive Refusal where
  /-- The operation has no meaning yet, by its mnemonic; raised by an arm of `exec`. No arm raises it. Safe. -/
  | notModelled (mnemonic : String)
  /-- An unknown value on `rst` or `in_valid` (70_reset_and_hazards.md R97, U8); raised by `step`. Safe: the spec gives it no meaning. -/
  | unknownControl
  /-- A frame longer than 65535 bytes (00_scope.md R3, U12); raised by `portOfFrame`. Safe: it cannot be presented. -/
  | frameTooLong
  /-- The selector reached selects no operation; raised by `step` in states that no run reaches. Safe. Log 11. -/
  | noOperation
deriving DecidableEq, Repr

/-- The machine right after reset with `p` stages: every valid bit 0, `out_valid` 0 (70_reset_and_hazards.md R89). The payloads
and `out_res` are unspecified there; zero is a DESIGN CHOICE, log 3. -/
def State.resetAt (p : Nat) : State where
  stages := List.replicate p ⟨false, ⟨0#16, 0#752⟩, false⟩
  port := PortIn.idle
  pending := []
  point := .start
  txn := ⟨0#16, 0#752⟩
  res := Record.zero
  outValid := false
  outRes := 0#288
  resetSeen := true
  observed := []
  cycle := 0
  freeCount := 0

/-- The machine right after reset, with the reference value of `PIPE_DEPTH` (92_eei_decisions.md D12; log 2). -/
def State.reset : State := State.resetAt Config.refPipeDepth

end Sys2Proof.Machine
end

