-- ==== Sys2Proof/Machine/Operands.lean ====
section
/-! DEFINITION. The operand form of every operation: `MemRead(a, n)`, a guarded big-endian read of the frame under decode
(00_scope.md §6, 20_memory.md R17 to R25). -/

namespace Sys2Proof.Machine

/-- The guard of a read of `n` bytes at offset `a`: inside the frame (20_memory.md R18, U11) and inside the window
(20_memory.md R17). -/
def guardRead {α : Type} (t : Transaction) (a n : Nat) (v : α) : Except Fault α :=
  if t.len.toNat < a + n then .error .pastFrame
  else if Config.hdrBytes < a + n then .error .pastWindow
  else .ok v

/-- The big-endian value of 2 bytes at `a` (20_memory.md R20). -/
def bytes2 (t : Transaction) (a : Nat) : BitVec 16 := t.byte a ++ t.byte (a + 1)

/-- The big-endian value of 4 bytes at `a` (20_memory.md R20). -/
def bytes4 (t : Transaction) (a : Nat) : BitVec 32 := bytes2 t a ++ bytes2 t (a + 2)

/-- The big-endian value of 6 bytes at `a` (20_memory.md R20; 10_state.md R10). -/
def bytes6 (t : Transaction) (a : Nat) : BitVec 48 := bytes4 t a ++ bytes2 t (a + 4)

/-- `MemRead(a, 1)`. -/
def memRead1 (t : Transaction) (a : Nat) : Except Fault Byte := guardRead t a 1 (t.byte a)

/-- `MemRead(a, 2)`. -/
def memRead2 (t : Transaction) (a : Nat) : Except Fault (BitVec 16) := guardRead t a 2 (bytes2 t a)

/-- `MemRead(a, 4)`. -/
def memRead4 (t : Transaction) (a : Nat) : Except Fault (BitVec 32) := guardRead t a 4 (bytes4 t a)

/-- `MemRead(a, 6)`. -/
def memRead6 (t : Transaction) (a : Nat) : Except Fault (BitVec 48) := guardRead t a 6 (bytes6 t a)

end Sys2Proof.Machine
end

