-- ==== Sys2Proof/Machine/Flags.lean ====
section
/-! DEFINITION. The status fields, which are the block's condition codes (10_state.md R6 to R9): their code numbers, and the
class that the other three fix (60_exceptions.md R73). -/

namespace Sys2Proof.Machine

/-- The codes of `l2_status` (10_state.md R6). -/
def L2Status.code : L2Status → BitVec 1
  | .absent => 0#1
  | .present => 1#1

/-- The codes of `l3_status` (10_state.md R7). -/
def L3Status.code : L3Status → BitVec 3
  | .none => 0#3
  | .notIpv4 => 1#3
  | .present => 2#3
  | .badVersion => 3#3
  | .badIhl => 4#3
  | .truncHdr => 5#3
  | .truncEmpty => 6#3

/-- The codes of `l4_status` (10_state.md R8). -/
def L4Status.code : L4Status → BitVec 3
  | .none => 0#3
  | .tcp => 1#3
  | .udp => 2#3
  | .tcpTrunc => 3#3
  | .udpTrunc => 4#3
  | .unsupProto => 5#3

/-- The codes of `err_class` (10_state.md R9). -/
def ErrClass.code : ErrClass → BitVec 2
  | .none => 0#2
  | .tooShort => 1#2
  | .unsupported => 2#2
  | .malformed => 3#2

/-- A consumer's reading of `l2_status`. -/
def l2OfCode (c : BitVec 1) : L2Status := if c = 1#1 then .present else .absent

/-- A consumer's reading of `l3_status`: none for the reserved code (30_encoding.md R43, U2; log 14). -/
def l3OfCode (c : BitVec 3) : Option L3Status :=
  if c = 0#3 then some .none
  else if c = 1#3 then some .notIpv4
  else if c = 2#3 then some .present
  else if c = 3#3 then some .badVersion
  else if c = 4#3 then some .badIhl
  else if c = 5#3 then some .truncHdr
  else if c = 6#3 then some .truncEmpty
  else none

/-- A consumer's reading of `l4_status`: none for the reserved codes (30_encoding.md R43, U3; log 14). -/
def l4OfCode (c : BitVec 3) : Option L4Status :=
  if c = 0#3 then some .none
  else if c = 1#3 then some .tcp
  else if c = 2#3 then some .udp
  else if c = 3#3 then some .tcpTrunc
  else if c = 4#3 then some .udpTrunc
  else if c = 5#3 then some .unsupProto
  else none

/-- A consumer's reading of `err_class`. -/
def errOfCode (c : BitVec 2) : ErrClass :=
  if c = 1#2 then .tooShort
  else if c = 2#2 then .unsupported
  else if c = 3#2 then .malformed
  else .none

/-- `err_class` as a function of the statuses (60_exceptions.md R73). -/
def errClassOf (l2 : L2Status) (l3 : L3Status) (l4 : L4Status) : ErrClass :=
  if l2 = .absent ∨ l3 = .truncHdr ∨ l3 = .truncEmpty ∨ l4 = .tcpTrunc ∨ l4 = .udpTrunc then .tooShort
  else if l3 = .badVersion ∨ l4 = .unsupProto then .unsupported
  else if l3 = .badIhl then .malformed
  else .none

end Sys2Proof.Machine
end

