-- ==== Sys2Proof/Machine/Record.lean ====
section
/-! DEFINITION. The layout of the result record on `out_res[287:0]` (30_encoding.md R35), and a consumer's reading of it. -/

namespace Sys2Proof.Machine

/-- A field in the record, with its least significant bit at bit `lo` (30_encoding.md R35). -/
def atBit (lo : Nat) {w : Nat} (v : BitVec w) : RecordBits := v.setWidth 288 <<< lo

/-- The 288-bit record: each field at the bits of the layout (30_encoding.md R35). -/
def Record.pack (r : Record) : RecordBits :=
  atBit 0 r.l2Status.code ||| atBit 1 r.l3Status.code ||| atBit 4 r.l4Status.code ||| atBit 7 r.errClass.code |||
    atBit 9 r.l4Offset ||| atBit 16 r.ethDst ||| atBit 64 r.ethSrc ||| atBit 112 r.ethType |||
    atBit 128 r.ipVersion ||| atBit 132 r.ipIhl ||| atBit 136 r.ipTtl ||| atBit 144 r.ipProto |||
    atBit 152 r.ipSrc ||| atBit 184 r.ipDst ||| atBit 216 r.l4Sport ||| atBit 232 r.l4Dport |||
    atBit 248 r.tcpFlags ||| atBit 256 r.udpLen ||| atBit 272 r.udpCsum

/-- A consumer's reading of `out_res` by the same layout: none where a status holds a reserved code (30_encoding.md R43). -/
def Record.unpack (x : RecordBits) : Option Record :=
  match l3OfCode (x.extractLsb' 1 3), l4OfCode (x.extractLsb' 4 3) with
  | some l3, some l4 =>
      some {
        l2Status := l2OfCode (x.extractLsb' 0 1)
        l3Status := l3
        l4Status := l4
        errClass := errOfCode (x.extractLsb' 7 2)
        l4Offset := x.extractLsb' 9 7
        ethDst := x.extractLsb' 16 48
        ethSrc := x.extractLsb' 64 48
        ethType := x.extractLsb' 112 16
        ipVersion := x.extractLsb' 128 4
        ipIhl := x.extractLsb' 132 4
        ipTtl := x.extractLsb' 136 8
        ipProto := x.extractLsb' 144 8
        ipSrc := x.extractLsb' 152 32
        ipDst := x.extractLsb' 184 32
        l4Sport := x.extractLsb' 216 16
        l4Dport := x.extractLsb' 232 16
        tcpFlags := x.extractLsb' 248 8
        udpLen := x.extractLsb' 256 16
        udpCsum := x.extractLsb' 272 16 }
  | _, _ => none

end Sys2Proof.Machine
end

