-- ==== Sys2Proof/Machine/Ops.lean ====
section
/-! DEFINITION. The shared operations: the presentation of a record (the one way a decode ends; there is no exception entry,
60_exceptions.md R72, R76), the transaction at the output, the clock edge, and the selector that is fetched. -/

namespace Sys2Proof.Machine

/-- The outcome of an operation that reads the frame: the next state, or the fault of a read outside it (U11). -/
def ofReads (r : Except Fault State) : Host.Outcome State Fault Refusal :=
  match r with
  | .ok s => .next s
  | .error f => .fault f

/-- This cycle counts for the observation of the run: not before the first reset has ended (70_reset_and_hazards.md R100, U7),
and with no stage in every cycle, because no reset is needed then (R92; log 8). -/
def State.observing (s : State) : Bool := s.resetSeen || s.stages.isEmpty

/-- `return` with the finished record: `out_valid = 1`, `out_res` is the packed record (R86, R87), and the observation of the
run gains it in a cycle that counts (R100). Every terminal operation ends here, whatever its outcome (60_exceptions.md R72). -/
def State.deliver (s : State) (r : Record) : State :=
  { s with
    res := r
    outValid := true
    outRes := r.pack
    observed := if s.observing then s.observed ++ [⟨s.cycle, s.txn, r.pack⟩] else s.observed
    point := .edge }

/-- A transaction is accepted in this cycle: `in_valid = 1` and `rst = 0` (70_reset_and_hazards.md R85). -/
def State.accepted (s : State) : Bool :=
  decide (s.port.inValid = .high ∧ s.port.rst = .low)

/-- `rst` and `in_valid` are each a defined 0 or 1 (70_reset_and_hazards.md R97). -/
def PortIn.known (p : PortIn) : Bool :=
  decide (p.rst ≠ .unknown ∧ p.inValid ≠ .unknown)

/-- `out_valid(t)`: the acceptance of this cycle when `P = 0` (R86), else `v[P-1]`, not gated by `rst` (R87). -/
def State.presenting (s : State) : Bool :=
  match s.stages.getLast? with
  | none => s.accepted
  | some st => st.v

/-- A transaction is at the output to be decoded: the one accepted in this cycle when `P = 0` (R86), else an accepted one in
`S[P-1]` (R87). A valid bit that stands there from power-up presents a record that is no transaction's (R92, U7; log 12). -/
def State.decoding (s : State) : Bool :=
  match s.stages.getLast? with
  | none => s.accepted
  | some st => st.v && st.accepted

/-- The operands that `DECODE` is applied to: `in(t)` when `P = 0` (R86), else `d[P-1]` (R16, R87). -/
def State.operands (s : State) : Transaction :=
  match s.stages.getLast? with
  | none => s.port.txn
  | some st => st.d

/-- A cycle with no transaction at the output: `out_res` is a free value. `out_valid` is 0 (R90, U4; log 4), but for a valid bit
of power-up, which presents that value (R92, U7; log 12). -/
def State.idle (s : State) : State :=
  { s with
    outValid := s.presenting
    outRes := Config.freeRecord s.freeCount
    freeCount := s.freeCount + 1
    point := .edge }

/-- An unspecified payload: the `n`-th free transaction (R16, R89, U5; log 5). -/
def freeTransaction (n : Nat) : Transaction := ⟨Config.freeLen n, Config.freeWindow n⟩

/-- The stages after a reset edge: every valid bit 0, every payload unspecified (70_reset_and_hazards.md R87, R89). -/
def resetStages (n : Nat) : List Stage → List Stage
  | [] => []
  | _ :: rest => ⟨false, freeTransaction n, false⟩ :: resetStages (n + 1) rest

/-- The stages after an edge without reset: `S[0]` takes the new stage, `S[k]` takes `S[k-1]` (70_reset_and_hazards.md R87). -/
def shiftStages (new : Stage) : List Stage → List Stage
  | [] => []
  | st :: rest => new :: shiftStages st rest

/-- What `S[0]` takes without reset: `v[0] <- in_valid(t)`, `d[0] <- in(t)`, unspecified when `in_valid = 0` (R87; log 5). -/
def State.sampled (s : State) : Stage :=
  if s.port.inValid = .high then ⟨true, s.port.txn, true⟩ else ⟨false, freeTransaction s.freeCount, false⟩

/-- The stages after the edge that ends this cycle (70_reset_and_hazards.md R87). -/
def State.nextStages (s : State) : List Stage :=
  if s.port.rst = .high then resetStages s.freeCount s.stages else shiftStages s.sampled s.stages

/-- The clock edge that ends this cycle: the stages change (R87), and the host drives its next port values (R99). -/
def State.clockEdge (s : State) : State :=
  { s with
    stages := s.nextStages
    port := s.pending.headD PortIn.idle
    pending := s.pending.tail
    point := .start
    resetSeen := s.resetSeen || decide (s.port.rst = .high)
    cycle := s.cycle + 1
    freeCount := s.freeCount + s.stages.length + 1 }

/-- What a step finds at the point the decode has reached. -/
inductive Fetched where
  /-- The selector of the layer that is reached. -/
  | selector (x : Selector)
  /-- The cycle's outputs are settled: the clock edge is next. -/
  | edge
  /-- The read of IPv4 byte 0 was outside the frame. -/
  | fault (f : Fault)
deriving DecidableEq, Repr

/-- The fetch: the selector field of the layer that is reached, read as 40_decode_top.md R45 reads it. IPv4 byte 0 is read
only after the EtherType and the length have been tested. -/
def fetch (s : State) : Fetched :=
  match s.point with
  | .start => .selector (.transaction s.decoding)
  | .layer2 => .selector (.layer2 s.txn.len)
  | .afterEth =>
      if s.res.ethType ≠ etherTypeIpv4 ∨ s.txn.len.toNat < ethHeaderLen + 1 then
        .selector (.ethType s.res.ethType s.txn.len)
      else
        match memRead1 s.txn ethHeaderLen with
        | .ok b0 => .selector (.ipv4 b0 s.txn.len)
        | .error f => .fault f
  | .layer4 => .selector (.proto s.res.ipProto s.res.l4Offset s.txn.len)
  | .edge => .edge

end Sys2Proof.Machine
end

