-- ==== Sys2Proof/Machine/Ethernet.lean ====
section
/-! DEFINITION. The meanings of the Ethernet layer operations (41_ethernet.md R49 to R51). -/

namespace Sys2Proof.Machine

/-- `ETH_SHORT` (R49). -/
def execEthShort (s : State) : Host.Outcome State Fault Refusal :=
  .next (s.deliver { s.res with errClass := .tooShort })

/-- `ETH_HDR` (R50). -/
def execEthHdr (s : State) : Host.Outcome State Fault Refusal :=
  ofReads do
    let dst ← memRead6 s.txn 0
    let src ← memRead6 s.txn 6
    let type ← memRead2 s.txn 12
    pure { s with
      res := { s.res with l2Status := .present, ethDst := dst, ethSrc := src, ethType := type }
      point := .afterEth }

/-- `ETH_NOTIP` (R51). -/
def execEthNotIp (s : State) : Host.Outcome State Fault Refusal :=
  .next (s.deliver { s.res with l3Status := .notIpv4 })

end Sys2Proof.Machine
end

