-- ==== Sys2Proof/Machine/Ipv4.lean ====
section
/-! DEFINITION. The meanings of the IPv4 layer operations (42_ipv4.md R54 to R58). -/

namespace Sys2Proof.Machine

/-- `IP_EMPTY` (R54). -/
def execIpEmpty (s : State) : Host.Outcome State Fault Refusal :=
  .next (s.deliver { s.res with l3Status := .truncEmpty, errClass := .tooShort })

/-- `IP_BADVER(b0)` (R55). -/
def execIpBadVer (b0 : Byte) (s : State) : Host.Outcome State Fault Refusal :=
  .next (s.deliver { s.res with ipVersion := ipVersion b0, l3Status := .badVersion, errClass := .unsupported })

/-- `IP_BADIHL(b0)` (R56). -/
def execIpBadIhl (b0 : Byte) (s : State) : Host.Outcome State Fault Refusal :=
  .next (s.deliver { s.res with
    ipVersion := ipVersion b0, ipIhl := ipIhl b0, l3Status := .badIhl, errClass := .malformed })

/-- `IP_TRUNC(b0)` (R57). -/
def execIpTrunc (b0 : Byte) (s : State) : Host.Outcome State Fault Refusal :=
  .next (s.deliver { s.res with
    ipVersion := ipVersion b0, ipIhl := ipIhl b0, l3Status := .truncHdr, errClass := .tooShort })

/-- `IP_HDR(b0, off)` (R58). -/
def execIpHdr (b0 : Byte) (off : Offset) (s : State) : Host.Outcome State Fault Refusal :=
  ofReads do
    let ttl ← memRead1 s.txn 22
    let proto ← memRead1 s.txn 23
    let src ← memRead4 s.txn 26
    let dst ← memRead4 s.txn 30
    pure { s with
      res := { s.res with
        l3Status := .present
        ipVersion := ipVersion b0
        ipIhl := ipIhl b0
        ipTtl := ttl
        ipProto := proto
        ipSrc := src
        ipDst := dst
        l4Offset := off }
      point := .layer4 }

end Sys2Proof.Machine
end

