-- ==== Sys2Proof/Machine/Top.lean ====
section
/-! DEFINITION. The meaning of `DECODE` (40_decode_top.md R45). -/

namespace Sys2Proof.Machine

/-- `DECODE`: take the operands as one snapshot (20_memory.md R28), set every field of the record to 0 (10_state.md R5), and
go on to layer 2. The row is not terminal: the layer operations that R45 composes follow as the next steps (log 1). -/
def execDecode (s : State) : Host.Outcome State Fault Refusal :=
  .next { s with txn := s.operands, res := Record.zero, point := .layer2 }

end Sys2Proof.Machine
end

