-- ==== Sys2Proof/Machine/Transport.lean ====
section
/-! DEFINITION. The meanings of the transport layer operations (43_transport.md R64 to R68). -/

namespace Sys2Proof.Machine

/-- `TCP_TRUNC` (R64). -/
def execTcpTrunc (s : State) : Host.Outcome State Fault Refusal :=
  .next (s.deliver { s.res with l4Status := .tcpTrunc, errClass := .tooShort })

/-- `TCP_HDR(off)` (R65). -/
def execTcpHdr (off : Offset) (s : State) : Host.Outcome State Fault Refusal :=
  ofReads do
    let sport ← memRead2 s.txn off.toNat
    let dport ← memRead2 s.txn (off.toNat + 2)
    let flags ← memRead1 s.txn (off.toNat + 13)
    pure (s.deliver { s.res with l4Status := .tcp, l4Sport := sport, l4Dport := dport, tcpFlags := flags })

/-- `UDP_TRUNC` (R66). -/
def execUdpTrunc (s : State) : Host.Outcome State Fault Refusal :=
  .next (s.deliver { s.res with l4Status := .udpTrunc, errClass := .tooShort })

/-- `UDP_HDR(off)` (R67). -/
def execUdpHdr (off : Offset) (s : State) : Host.Outcome State Fault Refusal :=
  ofReads do
    let sport ← memRead2 s.txn off.toNat
    let dport ← memRead2 s.txn (off.toNat + 2)
    let length ← memRead2 s.txn (off.toNat + 4)
    let checksum ← memRead2 s.txn (off.toNat + 6)
    pure (s.deliver { s.res with
      l4Status := .udp, l4Sport := sport, l4Dport := dport, udpLen := length, udpCsum := checksum })

/-- `L4_UNSUP` (R68). The value `n` of the source's message is `ip_proto`, already written. -/
def execL4Unsup (s : State) : Host.Outcome State Fault Refusal :=
  .next (s.deliver { s.res with l4Status := .unsupProto, errClass := .unsupported })

end Sys2Proof.Machine
end

