-- ==== Sys2Proof/Machine/Dispatch.lean ====
section
/-! DEFINITION. One arm per operation of spec/opcode_table.json. -/

namespace Sys2Proof.Machine

def exec (i : Instr) (s : State) : Host.Outcome State Fault Refusal :=
  match i with
  | .decode => Sys2Proof.Machine.execDecode s
  | .ethShort => Sys2Proof.Machine.execEthShort s
  | .ethHdr => Sys2Proof.Machine.execEthHdr s
  | .ethNotIp => Sys2Proof.Machine.execEthNotIp s
  | .ipEmpty => Sys2Proof.Machine.execIpEmpty s
  | .ipBadVer b0 => Sys2Proof.Machine.execIpBadVer b0 s
  | .ipBadIhl b0 => Sys2Proof.Machine.execIpBadIhl b0 s
  | .ipTrunc b0 => Sys2Proof.Machine.execIpTrunc b0 s
  | .ipHdr b0 off => Sys2Proof.Machine.execIpHdr b0 off s
  | .tcpTrunc => Sys2Proof.Machine.execTcpTrunc s
  | .tcpHdr off => Sys2Proof.Machine.execTcpHdr off s
  | .udpTrunc => Sys2Proof.Machine.execUdpTrunc s
  | .udpHdr off => Sys2Proof.Machine.execUdpHdr off s
  | .l4Unsup => Sys2Proof.Machine.execL4Unsup s

end Sys2Proof.Machine
end

