-- ==== Sys2Proof/Machine/Fetch.lean ====
section
/-! DEFINITION. What one step does at the point the decode has reached, and how a table row's bits are placed where the
next step fetches. -/

namespace Sys2Proof.Machine

/-- The step behind the check of the control inputs: the selected operation, an idle presentation, or the clock edge. -/
def stepAt (s : State) : Host.Outcome State Fault Refusal :=
  match fetch s with
  | .edge => .next s.clockEdge
  | .fault f => .fault f
  | .selector x =>
      match decode x with
      | .ok i => exec i s
      | .error .noTransaction => .next s.idle
      | .error .layer3 => .refused .noOperation
      | .error .impossible => .refused .noOperation

/-- The stages with an accepted transaction in `S[P-1]`. -/
def placeLast (t : Transaction) : List Stage → List Stage
  | [] => []
  | [_] => [⟨true, t, true⟩]
  | st :: st' :: rest => st :: placeLast t (st' :: rest)

/-- The frame of a table row's bits: an Ethernet header of the given type, then an IPv4 header of IHL 5 with the given
protocol, every other byte 0 (30_encoding.md R30, R31). -/
def tableFrame (len : Len) (type : BitVec 16) (proto : Byte) : Transaction :=
  ⟨len, windowOfBytes (List.replicate 12 0#8 ++ [type.extractLsb' 8 8, type.extractLsb' 0 8, 0x45#8] ++
    List.replicate 8 0#8 ++ [proto])⟩

/-- `s` with the selector of a table row where the next step fetches (log 19): the layer reached, the frame under decode, and
the record as the earlier layers leave it. -/
def State.withSelector (s : State) (x : Selector) : State :=
  match x with
  | .transaction _ =>
      { s with
        port := ⟨.low, if s.stages.isEmpty then .high else .low, ⟨0#16, 0#752⟩⟩
        stages := placeLast ⟨0#16, 0#752⟩ s.stages
        point := .start }
  | .layer2 len =>
      { s with
        port := { s.port with rst := .low, inValid := .low }
        txn := ⟨len, 0#752⟩
        res := Record.zero
        point := .layer2 }
  | .ethType type len =>
      { s with
        port := { s.port with rst := .low, inValid := .low }
        txn := tableFrame len type 0#8
        res := { Record.zero with l2Status := .present, ethType := type }
        point := .afterEth }
  | .ipv4 b0 len =>
      { s with
        port := { s.port with rst := .low, inValid := .low }
        txn := ⟨len, windowOfBytes (List.replicate 12 0#8 ++ [0x08#8, 0x00#8, b0])⟩
        res := { Record.zero with l2Status := .present, ethType := etherTypeIpv4 }
        point := .afterEth }
  | .proto proto off len =>
      { s with
        port := { s.port with rst := .low, inValid := .low }
        txn := tableFrame len etherTypeIpv4 proto
        res := { Record.zero with
          l2Status := .present, ethType := etherTypeIpv4, l3Status := .present, ipVersion := versionIpv4,
          ipIhl := 5#4, ipProto := proto, l4Offset := off }
        point := .layer4 }

end Sys2Proof.Machine
end

