-- ==== Sys2Proof/Machine/Step.lean ====
section
/-! DEFINITION. One step of the machine: one operation of the dispatch tree, one idle presentation, or the clock edge. -/

namespace Sys2Proof.Machine

/-- One step. An unknown `rst` or `in_valid` is refused (70_reset_and_hazards.md R97). -/
def step (s : State) : Host.Outcome State Fault Refusal :=
  if s.port.known then stepAt s else .refused .unknownControl

/-- `s` with the bits of a table row where `step` fetches next. -/
def State.withFetchWord (s : State) (nbits w : Nat) : State := s.withSelector (tableSelector nbits w)

end Sys2Proof.Machine
end

