-- ==== Sys2Proof/Machine/HostPort.lean ====
section
/-! DEFINITION. What the producer side of the host drives for a frame (70_reset_and_hazards.md R95 duties 1 to 3), and the
frame notation of 30_encoding.md R44. -/

namespace Sys2Proof.Machine

/-- The operands of a frame: its true length, and its first 94 bytes in the lanes of the window (R95 duties 1 and 2). -/
def transactionOf (frame : List Byte) : Transaction := ⟨BitVec.ofNat 16 frame.length, windowOfBytes frame⟩

/-- The port values that present a frame; a frame longer than 65535 bytes is refused (R95 duty 3, 00_scope.md R3, U12). -/
def portOfFrame (frame : List Byte) : Except Refusal PortIn :=
  if Config.maxFrameLen < frame.length then .error .frameTooLong
  else .ok ⟨.low, .high, transactionOf frame⟩

/-- The big-endian bytes of a 16-bit value (20_memory.md R20). -/
def be16 (v : BitVec 16) : List Byte := [v.extractLsb' 8 8, v.extractLsb' 0 8]

/-- The big-endian bytes of a 32-bit value. -/
def be32 (v : BitVec 32) : List Byte := be16 (v.extractLsb' 16 16) ++ be16 (v.extractLsb' 0 16)

/-- The big-endian bytes of a 48-bit value. -/
def be48 (v : BitVec 48) : List Byte := be16 (v.extractLsb' 32 16) ++ be32 (v.extractLsb' 0 32)

/-- The `ETH` layer of the notation and its defaults (R44). -/
structure EthLayer where
  dst : Mac := 0x001122334455#48
  src : Mac := 0x66778899aabb#48
  type : BitVec 16 := 0x0800#16
deriving DecidableEq, Repr

/-- The `IPV4` layer of the notation and its defaults (R44). `none` is a key whose default depends on the other layers. -/
structure Ipv4Layer where
  ver : BitVec 4 := 4#4
  ihl : BitVec 4 := 5#4
  tos : Byte := 0#8
  tlen : Option (BitVec 16) := none
  id : BitVec 16 := 0#16
  frag : BitVec 16 := 0#16
  ttl : Byte := 64#8
  proto : Option Byte := none
  csum : BitVec 16 := 0#16
  src : Ipv4Addr := 0xc0a80001#32
  dst : Ipv4Addr := 0xc0a80002#32
  opts : Option (List Byte) := none
deriving DecidableEq, Repr

/-- The `TCP` layer of the notation; the ports are required (R44). -/
structure TcpLayer where
  sport : BitVec 16
  dport : BitVec 16
  seq : BitVec 32 := 0#32
  ack : BitVec 32 := 0#32
  doff : BitVec 4 := 5#4
  flags : Byte := 0#8
  win : BitVec 16 := 0#16
  csum : BitVec 16 := 0#16
  urg : BitVec 16 := 0#16
deriving DecidableEq, Repr

/-- The `UDP` layer of the notation; the ports are required (R44). -/
structure UdpLayer where
  sport : BitVec 16
  dport : BitVec 16
  len : Option (BitVec 16) := none
  csum : BitVec 16 := 0#16
deriving DecidableEq, Repr

/-- One layer of a frame (R44). -/
inductive Layer where
  | eth (h : EthLayer)
  | ipv4 (h : Ipv4Layer)
  | tcp (h : TcpLayer)
  | udp (h : UdpLayer)
  | bytes (bs : List Byte)
deriving DecidableEq, Repr

/-- A frame in the notation: its layers, cut to the first `n` bytes by `TRUNC n` (R44). -/
structure FrameText where
  layers : List Layer
  trunc : Option Nat := none
deriving DecidableEq, Repr

/-- The bytes of an `ETH` layer. -/
def ethBytes (h : EthLayer) : List Byte := be48 h.dst ++ be48 h.src ++ be16 h.type

/-- The default protocol: 6 before `TCP`, 17 before `UDP`, none otherwise (R44). -/
def defaultProto : List Layer → Option Byte
  | .tcp _ :: _ => some protoTcp
  | .udp _ :: _ => some protoUdp
  | _ => none

/-- The option bytes of an `IPV4` layer: none when IHL < 5, and `4*ihl - 20` of them otherwise (R44). Options that are given
with another count have no bytes (DESIGN CHOICE, log 23). -/
def optionBytes (h : Ipv4Layer) : Option (List Byte) :=
  if h.ihl.toNat < minIhl then some []
  else
    match h.opts with
    | none => some (List.replicate (4 * h.ihl.toNat - 20) 0#8)
    | some os => if os.length = 4 * h.ihl.toNat - 20 then some os else none

/-- The bytes of an `IPV4` layer before `later` layers of `n` bytes; none when the protocol is required and absent (R44;
DESIGN CHOICE, log 23). -/
def ipv4Bytes (h : Ipv4Layer) (later : List Layer) (n : Nat) : Option (List Byte) :=
  match (h.proto <|> defaultProto later), optionBytes h with
  | some proto, some os =>
      some ([h.ver ++ h.ihl, h.tos] ++ be16 (h.tlen.getD (BitVec.ofNat 16 (4 * h.ihl.toNat + n))) ++ be16 h.id ++
        be16 h.frag ++ [h.ttl, proto] ++ be16 h.csum ++ be32 h.src ++ be32 h.dst ++ os)
  | _, _ => none

/-- The bytes of a `TCP` layer. -/
def tcpBytes (h : TcpLayer) : List Byte :=
  be16 h.sport ++ be16 h.dport ++ be32 h.seq ++ be32 h.ack ++ [h.doff ++ 0#4, h.flags] ++ be16 h.win ++ be16 h.csum ++
    be16 h.urg

/-- The bytes of a `UDP` layer before `n` later bytes. -/
def udpBytes (h : UdpLayer) (n : Nat) : List Byte :=
  be16 h.sport ++ be16 h.dport ++ be16 (h.len.getD (BitVec.ofNat 16 (8 + n))) ++ be16 h.csum

/-- The expanded bytes of a list of layers, in order (R44). -/
def layersBytes : List Layer → Option (List Byte)
  | [] => some []
  | layer :: later =>
      match layersBytes later with
      | none => none
      | some rest =>
          match layer with
          | .eth h => some (ethBytes h ++ rest)
          | .ipv4 h => (ipv4Bytes h later rest.length).map (· ++ rest)
          | .tcp h => some (tcpBytes h ++ rest)
          | .udp h => some (udpBytes h rest.length ++ rest)
          | .bytes bs => some (bs ++ rest)

/-- The bytes of a frame in the notation (R44). `TRUNC n` with `n` above the expanded length has none: R44 gives the bytes past
the expansion no value (DESIGN CHOICE, log 23). -/
def FrameText.bytes (f : FrameText) : Option (List Byte) :=
  match f.trunc with
  | none => layersBytes f.layers
  | some n =>
      match layersBytes f.layers with
      | none => none
      | some bs => if n ≤ bs.length then some (bs.take n) else none

end Sys2Proof.Machine
end

