-- ==== Sys2Proof/Machine/Reference.lean ====
section
/-! DEFINITION. `DECODE` as one function, twice: the pseudocode of 40_decode_top.md R45, and the multiplexer structure of
R48 and 43_transport.md R71. With them the path of operations that R45 runs, and the address map of their reads (R22). -/

namespace Sys2Proof.Machine

/-- `DECODE(F, LEN)` as R45 writes it, layer 4: entered with the record of the layers before it. -/
def decodeTransport (t : Transaction) (off : Offset) (res : Record) : Except Fault Record :=
  if res.ipProto = protoTcp then
    if t.len.toNat < off.toNat + tcpHeaderLen then
      pure { res with l4Status := .tcpTrunc, errClass := .tooShort }
    else do
      let sport ← memRead2 t off.toNat
      let dport ← memRead2 t (off.toNat + 2)
      let flags ← memRead1 t (off.toNat + 13)
      pure { res with l4Status := .tcp, l4Sport := sport, l4Dport := dport, tcpFlags := flags }
  else if res.ipProto = protoUdp then
    if t.len.toNat < off.toNat + udpHeaderLen then
      pure { res with l4Status := .udpTrunc, errClass := .tooShort }
    else do
      let sport ← memRead2 t off.toNat
      let dport ← memRead2 t (off.toNat + 2)
      let length ← memRead2 t (off.toNat + 4)
      let checksum ← memRead2 t (off.toNat + 6)
      pure { res with
        l4Status := .udp, l4Sport := sport, l4Dport := dport, udpLen := length, udpCsum := checksum }
  else pure { res with l4Status := .unsupProto, errClass := .unsupported }

/-- `DECODE(F, LEN)` as R45 writes it, layer 3: entered by R52 with the record of the Ethernet layer. -/
def decodeNetwork (t : Transaction) (res : Record) : Except Fault Record :=
  if t.len.toNat < ethHeaderLen + 1 then pure { res with l3Status := .truncEmpty, errClass := .tooShort }
  else do
    let b0 ← memRead1 t 14
    if ipVersion b0 ≠ versionIpv4 then
      pure { res with ipVersion := ipVersion b0, l3Status := .badVersion, errClass := .unsupported }
    else if (ipIhl b0).toNat < minIhl then
      pure { res with
        ipVersion := ipVersion b0, ipIhl := ipIhl b0, l3Status := .badIhl, errClass := .malformed }
    else if t.len.toNat < (transportOffset (ipIhl b0)).toNat then
      pure { res with
        ipVersion := ipVersion b0, ipIhl := ipIhl b0, l3Status := .truncHdr, errClass := .tooShort }
    else do
      let ttl ← memRead1 t 22
      let proto ← memRead1 t 23
      let src ← memRead4 t 26
      let dst ← memRead4 t 30
      decodeTransport t (transportOffset (ipIhl b0)) { res with
        l3Status := .present
        ipVersion := ipVersion b0
        ipIhl := ipIhl b0
        ipTtl := ttl
        ipProto := proto
        ipSrc := src
        ipDst := dst
        l4Offset := transportOffset (ipIhl b0) }

/-- `DECODE(F, LEN)` as 40_decode_top.md R45 writes it. An error would be a read outside the frame (U11). -/
def decodeFrame (t : Transaction) : Except Fault Record :=
  if t.len.toNat < ethHeaderLen then pure { Record.zero with errClass := .tooShort }
  else do
    let dst ← memRead6 t 0
    let src ← memRead6 t 6
    let type ← memRead2 t 12
    let res := { Record.zero with l2Status := .present, ethDst := dst, ethSrc := src, ethType := type }
    if type ≠ etherTypeIpv4 then pure { res with l3Status := .notIpv4 }
    else decodeNetwork t res

/-- Zero gating: a field that is not valid for the statuses is 0 (10_state.md R5, 40_decode_top.md R48). -/
def gate {w : Nat} (valid : Bool) (v : BitVec w) : BitVec w := if valid then v else 0#w

/-- The 11-way selection on IHL: candidate `k` when `IHL = 5 + k`, `k` in 0..10 (43_transport.md R71). -/
def selectByIhl {w : Nat} (ihl : BitVec 4) (candidate : Nat → BitVec w) : BitVec w :=
  (List.range 11).foldr (fun k rest => if ihl.toNat = 5 + k then candidate k else rest) 0#w

/-- `DECODE` as the structure of 40_decode_top.md R48 and 43_transport.md R71: wires from fixed window bytes, comparators on
`LEN` and IHL, an 11-way multiplexer over the transport offsets `34 + 4k`, a priority encoder for the statuses, and zero
gating. No read is guarded. -/
def decodeMux (t : Transaction) : Record :=
  let len := t.len.toNat
  let type := t.byte 12 ++ t.byte 13
  let b0 := t.byte 14
  let ihl := ipIhl b0
  let proto := t.byte 23
  let l2 : Bool := decide (14 ≤ len)
  let isIp : Bool := l2 && decide (type = 0x0800#16)
  let hasB0 : Bool := isIp && decide (15 ≤ len)
  let isV4 : Bool := hasB0 && decide (ipVersion b0 = 4#4)
  let ihlOk : Bool := isV4 && decide (5 ≤ ihl.toNat)
  let ip : Bool := ihlOk && decide (14 + 4 * ihl.toNat ≤ len)
  let isTcp : Bool := ip && decide (proto = 6#8)
  let isUdp : Bool := ip && decide (proto = 17#8)
  let tcp : Bool := isTcp && decide (54 + 4 * (ihl.toNat - 5) ≤ len)
  let udp : Bool := isUdp && decide (42 + 4 * (ihl.toNat - 5) ≤ len)
  let l3 : L3Status :=
    if !l2 then .none else if !isIp then .notIpv4 else if !hasB0 then .truncEmpty
    else if !isV4 then .badVersion else if !ihlOk then .badIhl else if !ip then .truncHdr else .present
  let l4 : L4Status :=
    if !ip then .none else if tcp then .tcp else if isTcp then .tcpTrunc
    else if udp then .udp else if isUdp then .udpTrunc else .unsupProto
  { l2Status := if l2 then .present else .absent
    l3Status := l3
    l4Status := l4
    errClass := errClassOf (if l2 then .present else .absent) l3 l4
    l4Offset := gate ip (BitVec.ofNat 7 (14 + 4 * ihl.toNat))
    ethDst := gate l2 (t.byte 0 ++ t.byte 1 ++ t.byte 2 ++ t.byte 3 ++ t.byte 4 ++ t.byte 5)
    ethSrc := gate l2 (t.byte 6 ++ t.byte 7 ++ t.byte 8 ++ t.byte 9 ++ t.byte 10 ++ t.byte 11)
    ethType := gate l2 type
    ipVersion := gate hasB0 (ipVersion b0)
    ipIhl := gate isV4 ihl
    ipTtl := gate ip (t.byte 22)
    ipProto := gate ip proto
    ipSrc := gate ip (t.byte 26 ++ t.byte 27 ++ t.byte 28 ++ t.byte 29)
    ipDst := gate ip (t.byte 30 ++ t.byte 31 ++ t.byte 32 ++ t.byte 33)
    l4Sport := gate (tcp || udp) (selectByIhl ihl fun k => t.byte (34 + 4 * k) ++ t.byte (35 + 4 * k))
    l4Dport := gate (tcp || udp) (selectByIhl ihl fun k => t.byte (36 + 4 * k) ++ t.byte (37 + 4 * k))
    tcpFlags := gate tcp (selectByIhl ihl fun k => t.byte (47 + 4 * k))
    udpLen := gate udp (selectByIhl ihl fun k => t.byte (38 + 4 * k) ++ t.byte (39 + 4 * k))
    udpCsum := gate udp (selectByIhl ihl fun k => t.byte (40 + 4 * k) ++ t.byte (41 + 4 * k)) }

/-- The operations R45 runs on a transaction, in order: `DECODE`, the header operations that succeed, one terminal operation. -/
def decodePath (t : Transaction) : List Instr :=
  let b0 := t.byte 14
  let off := transportOffset (ipIhl b0)
  if t.len.toNat < 14 then [.decode, .ethShort]
  else if bytes2 t 12 ≠ etherTypeIpv4 then [.decode, .ethHdr, .ethNotIp]
  else if t.len.toNat < 15 then [.decode, .ethHdr, .ipEmpty]
  else if ipVersion b0 ≠ versionIpv4 then [.decode, .ethHdr, .ipBadVer b0]
  else if (ipIhl b0).toNat < minIhl then [.decode, .ethHdr, .ipBadIhl b0]
  else if t.len.toNat < off.toNat then [.decode, .ethHdr, .ipTrunc b0]
  else if t.byte 23 = protoTcp then
    if t.len.toNat < off.toNat + 20 then [.decode, .ethHdr, .ipHdr b0 off, .tcpTrunc]
    else [.decode, .ethHdr, .ipHdr b0 off, .tcpHdr off]
  else if t.byte 23 = protoUdp then
    if t.len.toNat < off.toNat + 8 then [.decode, .ethHdr, .ipHdr b0 off, .udpTrunc]
    else [.decode, .ethHdr, .ipHdr b0 off, .udpHdr off]
  else [.decode, .ethHdr, .ipHdr b0 off, .l4Unsup]

/-- The address map of every read (20_memory.md R22): the offset and the number of bytes of each read of an operation. The
read of IPv4 byte 0 belongs to the operation that it selects, whose operand it is. -/
def instrReads : Instr → List (Nat × Nat)
  | .decode => []
  | .ethShort => []
  | .ethHdr => [(0, 6), (6, 6), (12, 2)]
  | .ethNotIp => []
  | .ipEmpty => []
  | .ipBadVer _ => [(14, 1)]
  | .ipBadIhl _ => [(14, 1)]
  | .ipTrunc _ => [(14, 1)]
  | .ipHdr _ _ => [(14, 1), (22, 1), (23, 1), (26, 4), (30, 4)]
  | .tcpTrunc => []
  | .tcpHdr off => [(off.toNat, 2), (off.toNat + 2, 2), (off.toNat + 13, 1)]
  | .udpTrunc => []
  | .udpHdr off => [(off.toNat, 2), (off.toNat + 2, 2), (off.toNat + 4, 2), (off.toNat + 6, 2)]
  | .l4Unsup => []

end Sys2Proof.Machine
end

