-- ==== Sys2Proof/Machine/Run.lean ====
section
/-! DEFINITION. Whole cycles: the steps of one cycle run to its clock edge, and what the cycle rules R86 and R87 say of one
cycle at once. -/

namespace Sys2Proof.Machine

/-- Steps until the next cycle starts, at most `fuel` of them; with the fuel used up, the state that was reached. -/
def runToStart : Nat → State → Host.Outcome State Fault Refusal
  | 0, s => .next s
  | fuel + 1, s =>
      match step s with
      | .next s' => if s'.point = .start then .next s' else runToStart fuel s'
      | .fault f => .fault f
      | .refused r => .refused r

/-- One cycle: a decode has at most four operations after `DECODE`'s start, and the clock edge ends it (40_decode_top.md R45,
R47). -/
def runCycle (s : State) : Host.Outcome State Fault Refusal := runToStart 6 s

/-- `n` cycles. -/
def runCycles : Nat → State → Host.Outcome State Fault Refusal
  | 0, s => .next s
  | n + 1, s =>
      match runCycle s with
      | .next s' => runCycles n s'
      | .fault f => .fault f
      | .refused r => .refused r

/-- One cycle at once, from its start (70_reset_and_hazards.md R86, R87): the record of the operands at the output is
presented when there is a transaction, else a free value with the valid bit (R90, R92); then the clock edge. -/
def State.wholeCycle (s : State) : State :=
  if s.decoding then
    State.clockEdge (State.deliver { s with txn := s.operands } (decodeMux s.operands))
  else s.idle.clockEdge

/-- `n` cycles at once. -/
def State.wholeCycles : Nat → State → State
  | 0, s => s
  | n + 1, s => State.wholeCycles n s.wholeCycle

end Sys2Proof.Machine
end

