-- ==== Sys2Proof/Safety.lean ====
section
/-! DEFINITION. What counts as a sound run: the invariant of every state that a run reaches, the outcome table, and the end
of a run. -/

namespace Sys2Proof.Machine

/-- The record after `ETH_HDR` (41_ethernet.md R50). -/
def ethRecord (t : Transaction) : Record :=
  { Record.zero with
    l2Status := .present, ethDst := bytes6 t 0, ethSrc := bytes6 t 6, ethType := bytes2 t 12 }

/-- The record after `IP_HDR` (42_ipv4.md R58). -/
def ipRecord (t : Transaction) : Record :=
  { ethRecord t with
    l3Status := .present
    ipVersion := ipVersion (t.byte 14)
    ipIhl := ipIhl (t.byte 14)
    ipTtl := t.byte 22
    ipProto := t.byte 23
    ipSrc := bytes4 t 26
    ipDst := bytes4 t 30
    l4Offset := transportOffset (ipIhl (t.byte 14)) }

/-- The conditions under which `IP_HDR` runs (42_ipv4.md R60). -/
def IpPresent (t : Transaction) : Prop :=
  bytes2 t 12 = etherTypeIpv4 ∧ ipVersion (t.byte 14) = versionIpv4 ∧ minIhl ≤ (ipIhl (t.byte 14)).toNat ∧
    (transportOffset (ipIhl (t.byte 14))).toNat ≤ t.len.toNat

/-- `x` is the packed result of `DECODE` on `t` (40_decode_top.md R45, 30_encoding.md R35). -/
def IsDecodeOf (t : Transaction) (x : RecordBits) : Prop :=
  ∃ r, decodeFrame t = .ok r ∧ x = r.pack

/-- The decode under way agrees with R45 at the point it has reached; at the edge the outputs are those of R86 and R87. -/
def State.DecodeSound (s : State) : Prop :=
  match s.point with
  | .start => True
  | .layer2 => s.decoding = true ∧ s.txn = s.operands ∧ s.res = Record.zero
  | .afterEth =>
      s.decoding = true ∧ s.txn = s.operands ∧ ethHeaderLen ≤ s.txn.len.toNat ∧ s.res = ethRecord s.txn
  | .layer4 => s.decoding = true ∧ s.txn = s.operands ∧ IpPresent s.txn ∧ s.res = ipRecord s.txn
  | .edge => s.outValid = s.presenting ∧ (s.decoding = true → IsDecodeOf s.operands s.outRes)

/-- The observation of the run: every record is `DECODE` of its transaction, at most one a cycle, in cycle order, none from a
later cycle (70_reset_and_hazards.md R88, R100; 20_memory.md R28). -/
def State.ObservationSound (s : State) : Prop :=
  (∀ o ∈ s.observed, IsDecodeOf o.txn o.record) ∧
  s.observed.Pairwise (fun o o' => o.cycle < o'.cycle) ∧
  ∀ o ∈ s.observed, o.cycle < s.cycle ∨ (o.cycle = s.cycle ∧ s.point = .edge)

/-- Once a reset has ended, no valid bit stands from power-up (70_reset_and_hazards.md R89, R92). Before, nothing is observed
(R100). -/
def State.ResetSound (s : State) : Prop :=
  (s.resetSeen = true → ∀ st ∈ s.stages, st.v = true → st.accepted = true) ∧
  (s.observing = false → s.observed = [])

/-- The invariant of every state that a run reaches, from reset or from power-up. -/
def State.Inv (s : State) : Prop :=
  s.stages.length ≤ Config.maxPipeDepth ∧ s.DecodeSound ∧ s.ObservationSound ∧ s.ResetSound

/-- A power-up state (70_reset_and_hazards.md R92, U6, U7; log 12): any valid bits and payloads, none an accepted transaction, no
reset yet, and every other field but the empty observation as it may be at the start of a cycle. -/
def State.PowerUp (s : State) : Prop :=
  s.stages.length ≤ Config.maxPipeDepth ∧ s.point = .start ∧ (∀ st ∈ s.stages, st.accepted = false) ∧
    s.resetSeen = false ∧ s.observed = []

/-- A run has ended: the host presents no more transactions and every valid bit is 0 (70_reset_and_hazards.md R100). -/
def State.runEnded (s : State) : Bool :=
  s.stages.all (fun st => !st.v) &&
    (s.port :: s.pending).all (fun p => decide (p.inValid = .low))

/-- The codes `(l2, l3, l4, cls)` of the outcome table (60_exceptions.md R73); the operations that do not end a decode have
no row. -/
def outcomeCodes : Instr → Option (Nat × Nat × Nat × Nat)
  | .decode => none
  | .ethShort => some (0, 0, 0, 1)
  | .ethHdr => none
  | .ethNotIp => some (1, 1, 0, 0)
  | .ipEmpty => some (1, 6, 0, 1)
  | .ipBadVer _ => some (1, 3, 0, 2)
  | .ipBadIhl _ => some (1, 4, 0, 3)
  | .ipTrunc _ => some (1, 5, 0, 1)
  | .ipHdr _ _ => none
  | .tcpTrunc => some (1, 2, 3, 1)
  | .tcpHdr _ => some (1, 2, 1, 0)
  | .udpTrunc => some (1, 2, 4, 1)
  | .udpHdr _ => some (1, 2, 2, 0)
  | .l4Unsup => some (1, 2, 5, 2)

/-- The codes of a record's statuses. -/
def Record.codes (r : Record) : Nat × Nat × Nat × Nat :=
  (r.l2Status.code.toNat, r.l3Status.code.toNat, r.l4Status.code.toNat, r.errClass.code.toNat)

end Sys2Proof.Machine
end

