-- ==== Sys2Proof/Certificates/Slice0/Obligations.lean ====
section
/-! DEFINITION. The statements about FPARSE that are to be proved. -/

open Sys2Proof Sys2Proof.Machine

/-! ## The step -/

/-- A step runs the decoded operation: with known control inputs, when what is fetched at the point reached selects an
operation, the step is that operation's meaning, and nothing is added around it. -/
def Obligations.StepRunsDecodedOperation : Prop :=
  ∀ (s : State) (x : Selector) (i : Instr),
    s.port.known = true → fetch s = .selector x → Sys2Proof.decode x = .ok i → step s = exec i s

/-- What is fetched at each point (40_decode_top.md R45; that there are such points is the model's choice, log 1): at the start
whether an accepted transaction is at the output (R86, R87; a valid bit of power-up, R92, fetches no transaction, which is the
model's choice, log 12), then `LEN`, then `eth_type` or, when that is 0x0800 and byte 14 is in the frame, byte 14 (R52), then the
protocol and the transport offset (R63), and at the end of the cycle its clock edge (R87). -/
def Obligations.FetchReadsLayerSelector : Prop :=
  ∀ s : State,
    (s.point = .start → fetch s = .selector (.transaction s.decoding)) ∧
    (s.point = .layer2 → fetch s = .selector (.layer2 s.txn.len)) ∧
    (s.point = .afterEth →
      fetch s = .selector (if s.res.ethType = 0x0800#16 ∧ 15 ≤ s.txn.len.toNat
        then .ipv4 (s.txn.byte 14) s.txn.len else .ethType s.res.ethType s.txn.len)) ∧
    (s.point = .layer4 → fetch s = .selector (.proto s.res.ipProto s.res.l4Offset s.txn.len)) ∧
    (s.point = .edge → fetch s = .edge)

/-- The two steps that run no operation: a cycle with no transaction at the output drives a free `out_res`, with `out_valid = 0`
(R90), or with `out_valid = 1` for a valid bit of power-up (R92, U7), and observes nothing; and the clock edge ends a cycle.
That the two are steps of their own, with a point between them, is the model's choice (log 1); so are the free values for what
is open (logs 4 and 12) and the index that picks them (log 9). -/
def Obligations.StepWithoutOperation : Prop :=
  ∀ s : State, s.port.known = true →
    (s.point = .start → s.decoding = false →
      step s = .next { s with
        outValid := s.presenting, outRes := Config.freeRecord s.freeCount, freeCount := s.freeCount + 1
        point := .edge }) ∧
    (s.point = .edge → step s = .next s.clockEdge)

/-- An unknown `rst` or `in_valid` is refused, and nothing else is refused for that reason (R97). -/
def Obligations.UnknownControlInputIsRefused : Prop :=
  ∀ s : State, step s = .refused .unknownControl ↔ (s.port.rst = .unknown ∨ s.port.inValid = .unknown)

/-- The bits of a table row, placed where the step fetches, run as the operation the decoder reads from them. The placing is
the model's choice (logs 18 and 19). -/
def Obligations.PlacedTableWordRuns : Prop :=
  ∀ (s : State) (nbits w : Nat) (i : Instr),
    decodeTableWord nbits w = some i → step (s.withFetchWord nbits w) = exec i (s.withFetchWord nbits w)

/-- No operation touches the pipeline, the ports, the host's later port values, the cycle number or the free values: only a
clock edge or an idle presentation does. The observation grows by at most the record presented, in a cycle
that counts for it (log 8). That operations are steps is the model's choice (log 1). -/
def Obligations.OperationsLeavePipelineAlone : Prop :=
  ∀ (i : Instr) (s s' : State), exec i s = .next s' →
    s'.stages = s.stages ∧ s'.port = s.port ∧ s'.pending = s.pending ∧ s'.cycle = s.cycle ∧
      s'.freeCount = s.freeCount ∧ s'.presenting = s.presenting ∧ s'.operands = s.operands ∧
      s'.decoding = s.decoding ∧ s'.resetSeen = s.resetSeen ∧
      (i = .decode ∨ s'.txn = s.txn) ∧
      (i.terminal = false → s'.observed = s.observed ∧ s'.outValid = s.outValid ∧ s'.outRes = s.outRes) ∧
      (i.terminal = true → s'.point = .edge ∧ s'.outValid = true ∧ s'.outRes = s'.res.pack ∧
        s'.observed = if s.observing then s.observed ++ [⟨s.cycle, s.txn, s'.res.pack⟩] else s.observed)

/-! ## The dispatch map as an encoding -/

/-- Decode and encode agree: a well-formed operation, encoded in any context that meets the guard of its row, decodes to
itself with every operand. -/
def Obligations.DecodeOfEncodeIsIdentity : Prop :=
  ∀ (i : Instr) (c : Context), i.wellFormed = true → i.guard c = true → Sys2Proof.decode (encode c i) = .ok i

/-- Each selector has one meaning: what decodes to an operation is that operation's encoding, in a context that meets its
guard. -/
def Obligations.SelectorIsEncodingOfItsOperation : Prop :=
  ∀ (x : Selector) (i : Instr), Sys2Proof.decode x = .ok i → ∃ c : Context, i.guard c = true ∧ encode c i = x

/-- A few selector words written out from the dispatch map (R39 to R41) decode to the operations they stand for. -/
def Obligations.WrittenOutSelectorsDecode : Prop :=
  Sys2Proof.decode (.transaction true) = .ok .decode ∧
  Sys2Proof.decode (.layer2 13#16) = .ok .ethShort ∧
  Sys2Proof.decode (.layer2 14#16) = .ok .ethHdr ∧
  Sys2Proof.decode (.ethType 0x86dd#16 14#16) = .ok .ethNotIp ∧
  Sys2Proof.decode (.ethType 0x0800#16 14#16) = .ok .ipEmpty ∧
  Sys2Proof.decode (.ipv4 0x65#8 15#16) = .ok (.ipBadVer 0x65#8) ∧
  Sys2Proof.decode (.ipv4 0x44#8 54#16) = .ok (.ipBadIhl 0x44#8) ∧
  Sys2Proof.decode (.ipv4 0x4f#8 73#16) = .ok (.ipTrunc 0x4f#8) ∧
  Sys2Proof.decode (.ipv4 0x4f#8 74#16) = .ok (.ipHdr 0x4f#8 74#7) ∧
  Sys2Proof.decode (.proto 0x06#8 46#7 65#16) = .ok .tcpTrunc ∧
  Sys2Proof.decode (.proto 0x06#8 46#7 66#16) = .ok (.tcpHdr 46#7) ∧
  Sys2Proof.decode (.proto 0x11#8 34#7 41#16) = .ok .udpTrunc ∧
  Sys2Proof.decode (.proto 0x11#8 34#7 42#16) = .ok (.udpHdr 34#7) ∧
  Sys2Proof.decode (.proto 0x01#8 34#7 34#16) = .ok .l4Unsup

/-! ## The result record -/

/-- Every bit range of `out_res` holds the field that the layout gives it (R35). -/
def Obligations.RecordFieldsAtTheirBits : Prop :=
  ∀ r : Record,
    r.pack.extractLsb' 0 1 = r.l2Status.code ∧ r.pack.extractLsb' 1 3 = r.l3Status.code ∧
    r.pack.extractLsb' 4 3 = r.l4Status.code ∧ r.pack.extractLsb' 7 2 = r.errClass.code ∧
    r.pack.extractLsb' 9 7 = r.l4Offset ∧ r.pack.extractLsb' 16 48 = r.ethDst ∧
    r.pack.extractLsb' 64 48 = r.ethSrc ∧ r.pack.extractLsb' 112 16 = r.ethType ∧
    r.pack.extractLsb' 128 4 = r.ipVersion ∧ r.pack.extractLsb' 132 4 = r.ipIhl ∧
    r.pack.extractLsb' 136 8 = r.ipTtl ∧ r.pack.extractLsb' 144 8 = r.ipProto ∧
    r.pack.extractLsb' 152 32 = r.ipSrc ∧ r.pack.extractLsb' 184 32 = r.ipDst ∧
    r.pack.extractLsb' 216 16 = r.l4Sport ∧ r.pack.extractLsb' 232 16 = r.l4Dport ∧
    r.pack.extractLsb' 248 8 = r.tcpFlags ∧ r.pack.extractLsb' 256 16 = r.udpLen ∧
    r.pack.extractLsb' 272 16 = r.udpCsum

/-- A consumer reads back from `out_res` exactly the record that was packed. -/
def Obligations.UnpackOfPackIsIdentity : Prop := ∀ r : Record, Record.unpack r.pack = some r

/-- No record carries a reserved status code (R43): not 7 in `l3_status`, not 6 or 7 in `l4_status`. -/
def Obligations.ReservedCodesNeverProduced : Prop :=
  ∀ r : Record, r.pack.extractLsb' 1 3 ≠ 7#3 ∧ r.pack.extractLsb' 4 3 ≠ 6#3 ∧ r.pack.extractLsb' 4 3 ≠ 7#3

/-! ## The operations: which selector selects each, and its whole next state -/

/-- `DECODE` (R45): selected by a valid transaction. It takes the operands at the output as one snapshot, sets every field of
the record to 0 (R5), goes on to layer 2, and changes nothing else. That the later operations are later steps is the model's
choice (log 1). -/
def Obligations.DecodeOpensTransaction : Prop :=
  (∀ x : Selector, Sys2Proof.decode x = .ok .decode ↔ x = .transaction true) ∧
  (∀ s : State, exec .decode s = .next { s with txn := s.operands, res := Record.zero, point := .layer2 }) ∧
  Record.zero.pack = 0#288

/-- `ETH_SHORT` (R49): its guard, its next state, and the one record of all frames shorter than 14 bytes. The record is presented,
and observed in a cycle that counts (R86, R87, R100). The model's choices: the next point (log 1), the observation held in the
state (log 8), the effect in every state, whatever `LEN` is (log 21), and R49's class against the last sentence of R35 (log 20). -/
def Obligations.EthShortResult : Prop :=
  (∀ x : Selector, Sys2Proof.decode x = .ok .ethShort ↔ ∃ len : Len, x = .layer2 len ∧ len.toNat < 14) ∧
  (∀ s : State,
    let r : Record := { s.res with errClass := .tooShort }
    exec .ethShort s = .next { s with
      res := r, outValid := true, outRes := r.pack
      observed := if s.observing then s.observed ++ [⟨s.cycle, s.txn, r.pack⟩] else s.observed
      point := .edge }) ∧
  (∀ t : Transaction, t.len.toNat < 14 → decodeFrame t = .ok { Record.zero with errClass := .tooShort }) ∧
  Record.pack { Record.zero with errClass := .tooShort } = 0x80#288

/-- `ETH_HDR` (R50): its guard and its next state. What is fetched next is `FetchReadsLayerSelector`. The model's choice: the
operation is a step of its own and goes on to the point after Ethernet (log 1). -/
def Obligations.EthHdrResult : Prop :=
  (∀ x : Selector, Sys2Proof.decode x = .ok .ethHdr ↔ ∃ len : Len, x = .layer2 len ∧ 14 ≤ len.toNat) ∧
  (∀ s : State, 14 ≤ s.txn.len.toNat →
    exec .ethHdr s = .next { s with
      res := { s.res with
        l2Status := .present, ethDst := bytes6 s.txn 0, ethSrc := bytes6 s.txn 6, ethType := bytes2 s.txn 12 }
      point := .afterEth })

/-- `ETH_NOTIP` (R51): its guard and its next state. The record is presented, and observed in a cycle
that counts (R86, R87, R100). The model's choices: the next point (log 1), the observation held in the state (log 8), and the
effect in every state, outside the guard too (log 21). -/
def Obligations.EthNotIpResult : Prop :=
  (∀ x : Selector, Sys2Proof.decode x = .ok .ethNotIp ↔
    ∃ (type : BitVec 16) (len : Len), x = .ethType type len ∧ 14 ≤ len.toNat ∧ type ≠ 0x0800#16) ∧
  (∀ s : State,
    let r : Record := { s.res with l3Status := .notIpv4 }
    exec .ethNotIp s = .next { s with
      res := r, outValid := true, outRes := r.pack
      observed := if s.observing then s.observed ++ [⟨s.cycle, s.txn, r.pack⟩] else s.observed
      point := .edge })

/-- `IP_EMPTY` (R54): its guard and its next state. The record is presented, and observed in a cycle
that counts (R86, R87, R100). The model's choices: the next point (log 1), the observation held in the state (log 8), and the
effect in every state, outside the guard too (log 21). -/
def Obligations.IpEmptyResult : Prop :=
  (∀ x : Selector, Sys2Proof.decode x = .ok .ipEmpty ↔
    ∃ len : Len, x = .ethType 0x0800#16 len ∧ len.toNat = 14) ∧
  (∀ s : State,
    let r : Record := { s.res with l3Status := .truncEmpty, errClass := .tooShort }
    exec .ipEmpty s = .next { s with
      res := r, outValid := true, outRes := r.pack
      observed := if s.observing then s.observed ++ [⟨s.cycle, s.txn, r.pack⟩] else s.observed
      point := .edge })

/-- `IP_BADVER(b0)` (R55): its guard and its next state. The other fields of the record are as they were;
that they are 0 then is R46. The record is presented, and observed in a cycle that counts (R86, R87, R100). The model's choices: the next point (log 1), the observation held in the state (log 8), and the
effect in every state and every `b0`, outside the guard too (log 21). -/
def Obligations.IpBadVerResult : Prop :=
  (∀ (x : Selector) (b0 : Byte), Sys2Proof.decode x = .ok (.ipBadVer b0) ↔
    ∃ len : Len, x = .ipv4 b0 len ∧ 15 ≤ len.toNat ∧ b0 &&& 0xf0#8 ≠ 0x40#8) ∧
  (∀ (s : State) (b0 : Byte),
    let r : Record := { s.res with
      ipVersion := b0.extractLsb' 4 4, l3Status := .badVersion, errClass := .unsupported }
    exec (.ipBadVer b0) s = .next { s with
      res := r, outValid := true, outRes := r.pack
      observed := if s.observing then s.observed ++ [⟨s.cycle, s.txn, r.pack⟩] else s.observed
      point := .edge })

/-- `IP_BADIHL(b0)` (R56): its guard and its next state. The record is presented, and observed in a cycle
that counts (R86, R87, R100). The model's choices: the next point (log 1), the observation held in the state (log 8), and the
effect in every state and every `b0`, outside the guard too (log 21). -/
def Obligations.IpBadIhlResult : Prop :=
  (∀ (x : Selector) (b0 : Byte), Sys2Proof.decode x = .ok (.ipBadIhl b0) ↔
    ∃ len : Len, x = .ipv4 b0 len ∧ 15 ≤ len.toNat ∧ 0x40 ≤ b0.toNat ∧ b0.toNat ≤ 0x44) ∧
  (∀ (s : State) (b0 : Byte),
    let r : Record := { s.res with
      ipVersion := b0.extractLsb' 4 4, ipIhl := b0.extractLsb' 0 4, l3Status := .badIhl, errClass := .malformed }
    exec (.ipBadIhl b0) s = .next { s with
      res := r, outValid := true, outRes := r.pack
      observed := if s.observing then s.observed ++ [⟨s.cycle, s.txn, r.pack⟩] else s.observed
      point := .edge })

/-- `IP_TRUNC(b0)` (R57): its guard and its next state. The record is presented, and observed in a cycle
that counts (R86, R87, R100). The model's choices: the next point (log 1), the observation held in the state (log 8), and the
effect in every state and every `b0`, outside the guard too (log 21). -/
def Obligations.IpTruncResult : Prop :=
  (∀ (x : Selector) (b0 : Byte), Sys2Proof.decode x = .ok (.ipTrunc b0) ↔
    ∃ len : Len, x = .ipv4 b0 len ∧ 15 ≤ len.toNat ∧ 0x45 ≤ b0.toNat ∧ b0.toNat ≤ 0x4f ∧
      len.toNat < 14 + 4 * (b0.toNat % 16)) ∧
  (∀ (s : State) (b0 : Byte),
    let r : Record := { s.res with
      ipVersion := b0.extractLsb' 4 4, ipIhl := b0.extractLsb' 0 4, l3Status := .truncHdr, errClass := .tooShort }
    exec (.ipTrunc b0) s = .next { s with
      res := r, outValid := true, outRes := r.pack
      observed := if s.observing then s.observed ++ [⟨s.cycle, s.txn, r.pack⟩] else s.observed
      point := .edge })

/-- `IP_HDR(b0, off)` (R58): its guard, with `off` the transport offset of `b0`, and its next state. The model's choices: the point
at layer 4 (log 1), and the effect for every `b0` and `off`, also those the dispatch never passes (log 21). -/
def Obligations.IpHdrResult : Prop :=
  (∀ (x : Selector) (b0 : Byte) (off : Offset), Sys2Proof.decode x = .ok (.ipHdr b0 off) ↔
    ∃ len : Len, x = .ipv4 b0 len ∧ 0x45 ≤ b0.toNat ∧ b0.toNat ≤ 0x4f ∧
      off.toNat = 14 + 4 * (b0.toNat % 16) ∧ off.toNat ≤ len.toNat) ∧
  (∀ (s : State) (b0 : Byte) (off : Offset), 34 ≤ s.txn.len.toNat →
    exec (.ipHdr b0 off) s = .next { s with
      res := { s.res with
        l3Status := .present, ipVersion := b0.extractLsb' 4 4, ipIhl := b0.extractLsb' 0 4,
        ipTtl := s.txn.byte 22, ipProto := s.txn.byte 23, ipSrc := bytes4 s.txn 26, ipDst := bytes4 s.txn 30,
        l4Offset := off }
      point := .layer4 })

/-- `TCP_TRUNC` (R64): its guard and its next state. The record is presented, and observed in a cycle that
counts (R86, R87, R100). The model's choices: the next point (log 1), the observation held in the state (log 8), no operation
for the offsets and lengths that no frame presents (log 11),
and the effect in every state, outside the guard too (log 21). -/
def Obligations.TcpTruncResult : Prop :=
  (∀ x : Selector, Sys2Proof.decode x = .ok .tcpTrunc ↔
    ∃ (off : Offset) (len : Len), x = .proto 6#8 off len ∧ isTransportOffset off = true ∧
      off.toNat ≤ len.toNat ∧ len.toNat < off.toNat + 20) ∧
  (∀ s : State,
    let r : Record := { s.res with l4Status := .tcpTrunc, errClass := .tooShort }
    exec .tcpTrunc s = .next { s with
      res := r, outValid := true, outRes := r.pack
      observed := if s.observing then s.observed ++ [⟨s.cycle, s.txn, r.pack⟩] else s.observed
      point := .edge })

/-- `TCP_HDR(off)` (R65): its guard and its next state, for each of the eleven offsets. The record is presented,
and observed in a cycle that counts (R86, R87, R100). The model's choices: the next point (log 1), the observation held in the state (log 8), no operation
for the offsets and lengths that no frame presents (log 11). -/
def Obligations.TcpHdrResult : Prop :=
  (∀ (x : Selector) (off : Offset), Sys2Proof.decode x = .ok (.tcpHdr off) ↔
    ∃ len : Len, x = .proto 6#8 off len ∧ isTransportOffset off = true ∧ off.toNat + 20 ≤ len.toNat) ∧
  (∀ (s : State) (off : Offset), isTransportOffset off = true → off.toNat + 20 ≤ s.txn.len.toNat →
    let r : Record := { s.res with
      l4Status := .tcp, l4Sport := bytes2 s.txn off.toNat, l4Dport := bytes2 s.txn (off.toNat + 2),
      tcpFlags := s.txn.byte (off.toNat + 13) }
    exec (.tcpHdr off) s = .next { s with
      res := r, outValid := true, outRes := r.pack
      observed := if s.observing then s.observed ++ [⟨s.cycle, s.txn, r.pack⟩] else s.observed
      point := .edge })

/-- `UDP_TRUNC` (R66): its guard and its next state. The record is presented, and observed in a cycle that
counts (R86, R87, R100). The model's choices: the next point (log 1), the observation held in the state (log 8), no operation
for the offsets and lengths that no frame presents (log 11),
and the effect in every state, outside the guard too (log 21). -/
def Obligations.UdpTruncResult : Prop :=
  (∀ x : Selector, Sys2Proof.decode x = .ok .udpTrunc ↔
    ∃ (off : Offset) (len : Len), x = .proto 17#8 off len ∧ isTransportOffset off = true ∧
      off.toNat ≤ len.toNat ∧ len.toNat < off.toNat + 8) ∧
  (∀ s : State,
    let r : Record := { s.res with l4Status := .udpTrunc, errClass := .tooShort }
    exec .udpTrunc s = .next { s with
      res := r, outValid := true, outRes := r.pack
      observed := if s.observing then s.observed ++ [⟨s.cycle, s.txn, r.pack⟩] else s.observed
      point := .edge })

/-- `UDP_HDR(off)` (R67): its guard and its next state, for each of the eleven offsets. The record is presented,
and observed in a cycle that counts (R86, R87, R100). The model's choices: the next point (log 1), the observation held in the state (log 8), no operation
for the offsets and lengths that no frame presents (log 11). -/
def Obligations.UdpHdrResult : Prop :=
  (∀ (x : Selector) (off : Offset), Sys2Proof.decode x = .ok (.udpHdr off) ↔
    ∃ len : Len, x = .proto 17#8 off len ∧ isTransportOffset off = true ∧ off.toNat + 8 ≤ len.toNat) ∧
  (∀ (s : State) (off : Offset), isTransportOffset off = true → off.toNat + 8 ≤ s.txn.len.toNat →
    let r : Record := { s.res with
      l4Status := .udp, l4Sport := bytes2 s.txn off.toNat, l4Dport := bytes2 s.txn (off.toNat + 2),
      udpLen := bytes2 s.txn (off.toNat + 4), udpCsum := bytes2 s.txn (off.toNat + 6) }
    exec (.udpHdr off) s = .next { s with
      res := r, outValid := true, outRes := r.pack
      observed := if s.observing then s.observed ++ [⟨s.cycle, s.txn, r.pack⟩] else s.observed
      point := .edge })

/-- `L4_UNSUP` (R68): its guard, with no length test past the IPv4 header, and its next state. The record is presented, and observed
in a cycle that counts (R86, R87, R100). The model's choices: the next point (log 1), the observation held in the state (log 8),
no operation for the offsets and lengths that no frame presents (log 11), and the effect in every state (log 21). -/
def Obligations.L4UnsupResult : Prop :=
  (∀ x : Selector, Sys2Proof.decode x = .ok .l4Unsup ↔
    ∃ (proto : Byte) (off : Offset) (len : Len), x = .proto proto off len ∧ isTransportOffset off = true ∧
      off.toNat ≤ len.toNat ∧ proto ≠ 6#8 ∧ proto ≠ 17#8) ∧
  (∀ s : State,
    let r : Record := { s.res with l4Status := .unsupProto, errClass := .unsupported }
    exec .l4Unsup s = .next { s with
      res := r, outValid := true, outRes := r.pack
      observed := if s.observing then s.observed ++ [⟨s.cycle, s.txn, r.pack⟩] else s.observed
      point := .edge })

/-! ## Reads of the frame -/

/-- A guarded read answers exactly inside the frame and the window; a read past the frame is the fault `pastFrame` (R18, U11), and
one inside the frame but past the window the fault `pastWindow` (R17; that such a read is a fault is the model's choice, log 21). -/
def Obligations.MemReadIsBoundsChecked : Prop :=
  ∀ (t : Transaction) (a : Nat),
    (a + 1 ≤ t.len.toNat → a + 1 ≤ 94 → memRead1 t a = .ok (t.byte a)) ∧
    (a + 2 ≤ t.len.toNat → a + 2 ≤ 94 → memRead2 t a = .ok (bytes2 t a)) ∧
    (a + 4 ≤ t.len.toNat → a + 4 ≤ 94 → memRead4 t a = .ok (bytes4 t a)) ∧
    (a + 6 ≤ t.len.toNat → a + 6 ≤ 94 → memRead6 t a = .ok (bytes6 t a)) ∧
    (t.len.toNat < a + 1 → memRead1 t a = .error .pastFrame) ∧
    (t.len.toNat < a + 2 → memRead2 t a = .error .pastFrame) ∧
    (t.len.toNat < a + 4 → memRead4 t a = .error .pastFrame) ∧
    (t.len.toNat < a + 6 → memRead6 t a = .error .pastFrame) ∧
    (a + 1 ≤ t.len.toNat → 94 < a + 1 → memRead1 t a = .error .pastWindow) ∧
    (a + 2 ≤ t.len.toNat → 94 < a + 2 → memRead2 t a = .error .pastWindow) ∧
    (a + 4 ≤ t.len.toNat → 94 < a + 4 → memRead4 t a = .error .pastWindow) ∧
    (a + 6 ≤ t.len.toNat → 94 < a + 6 → memRead6 t a = .error .pastWindow)

/-- Every multi-byte value is big-endian: the byte at the lower offset is the more significant. So is every multi-byte field of
a record, the MAC and IPv4 addresses among them (R20). -/
def Obligations.MultiByteFieldsAreBigEndian : Prop :=
  (∀ (t : Transaction) (a : Nat),
    (bytes2 t a).toNat = (t.byte a).toNat * 2 ^ 8 + (t.byte (a + 1)).toNat ∧
    (bytes4 t a).toNat = (t.byte a).toNat * 2 ^ 24 + (t.byte (a + 1)).toNat * 2 ^ 16 +
      (t.byte (a + 2)).toNat * 2 ^ 8 + (t.byte (a + 3)).toNat ∧
    (bytes6 t a).toNat = (t.byte a).toNat * 2 ^ 40 + (t.byte (a + 1)).toNat * 2 ^ 32 +
      (t.byte (a + 2)).toNat * 2 ^ 24 + (t.byte (a + 3)).toNat * 2 ^ 16 +
      (t.byte (a + 4)).toNat * 2 ^ 8 + (t.byte (a + 5)).toNat ∧
    (∀ v, memRead2 t a = .ok v → v = t.byte a ++ t.byte (a + 1)) ∧
    (∀ v, memRead4 t a = .ok v → v = t.byte a ++ t.byte (a + 1) ++ t.byte (a + 2) ++ t.byte (a + 3)) ∧
    (∀ v, memRead6 t a = .ok v →
      v = t.byte a ++ t.byte (a + 1) ++ t.byte (a + 2) ++ t.byte (a + 3) ++ t.byte (a + 4) ++ t.byte (a + 5))) ∧
  ∀ (t : Transaction) (r : Record), decodeFrame t = .ok r →
    (r.l2Status = .present →
      r.ethDst = t.byte 0 ++ t.byte 1 ++ t.byte 2 ++ t.byte 3 ++ t.byte 4 ++ t.byte 5 ∧
      r.ethSrc = t.byte 6 ++ t.byte 7 ++ t.byte 8 ++ t.byte 9 ++ t.byte 10 ++ t.byte 11 ∧
      r.ethType = t.byte 12 ++ t.byte 13) ∧
    (r.l3Status = .present →
      r.ipSrc = t.byte 26 ++ t.byte 27 ++ t.byte 28 ++ t.byte 29 ∧
      r.ipDst = t.byte 30 ++ t.byte 31 ++ t.byte 32 ++ t.byte 33) ∧
    (r.l4Status = .tcp ∨ r.l4Status = .udp →
      r.l4Sport = t.byte r.l4Offset.toNat ++ t.byte (r.l4Offset.toNat + 1) ∧
      r.l4Dport = t.byte (r.l4Offset.toNat + 2) ++ t.byte (r.l4Offset.toNat + 3)) ∧
    (r.l4Status = .udp →
      r.udpLen = t.byte (r.l4Offset.toNat + 4) ++ t.byte (r.l4Offset.toNat + 5) ∧
      r.udpCsum = t.byte (r.l4Offset.toNat + 6) ++ t.byte (r.l4Offset.toNat + 7))

/-- The transport offset is `14 + 4*IHL` exactly, of the IHL of the frame under decode, for every legal IHL, the header length is
`ip_ihl ++ 0b00`, and no comparison with `LEN` overflows or wraps (R59, R38). -/
def Obligations.TransportOffsetIsExact : Prop :=
  (∀ (x : Selector) (b0 : Byte) (off : Offset),
    Sys2Proof.decode x = .ok (.ipHdr b0 off) → off = transportOffset (b0.extractLsb' 0 4)) ∧
  ∀ ihl : BitVec 4, 5 ≤ ihl.toNat →
    headerLength ihl = ihl ++ 0b00#2 ∧ (headerLength ihl).toNat = 4 * ihl.toNat ∧
    20 ≤ (headerLength ihl).toNat ∧ (headerLength ihl).toNat ≤ 60 ∧
    (transportOffset ihl).toNat = 14 + 4 * ihl.toNat ∧
    (transportOffset ihl).toNat = 14 + (headerLength ihl).toNat ∧
    (transportOffset ihl).toNat ∈ [34, 38, 42, 46, 50, 54, 58, 62, 66, 70, 74] ∧
    (transportOffset ihl + 8#7).toNat = (transportOffset ihl).toNat + 8 ∧ (transportOffset ihl + 8#7).toNat ≤ 82 ∧
    (transportOffset ihl + 20#7).toNat = (transportOffset ihl).toNat + 20 ∧ (transportOffset ihl + 20#7).toNat ≤ 94 ∧
    (∀ len : Len,
      ((transportOffset ihl).setWidth 16 > len ↔ 14 + 4 * ihl.toNat > len.toNat) ∧
      (len < (transportOffset ihl + 20#7).setWidth 16 ↔ len.toNat < 14 + 4 * ihl.toNat + 20) ∧
      (len < (transportOffset ihl + 8#7).setWidth 16 ↔ len.toNat < 14 + 4 * ihl.toNat + 8))

/-- The operations that R45 runs on a transaction are at most four, the last of them is terminal, and no other is. -/
def Obligations.OneTerminalOperationPerTransaction : Prop :=
  ∀ t : Transaction, ∃ (front : List Instr) (last : Instr),
    decodePath t = .decode :: front ++ [last] ∧ front.length ≤ 2 ∧ last.terminal = true ∧
      ∀ i ∈ front, i.terminal = false

/-- Every read on the path of a transaction lies inside the frame and ends before byte 88, and a path makes at most 12 reads
(the spec's own inferences R22, R23 and R47). -/
def Obligations.PathReadsInsideFrame : Prop :=
  ∀ t : Transaction,
    (∀ i ∈ decodePath t, ∀ rd ∈ instrReads i, rd.1 + rd.2 ≤ t.len.toNat ∧ rd.1 + rd.2 ≤ 88) ∧
    ((decodePath t).flatMap instrReads).length ≤ 12

/-- No two reads on a path overlap: no byte is read twice, IPv4 byte 0 being read once for both its nibbles (the
spec's own inference R21). -/
def Obligations.PathReadsDoNotOverlap : Prop :=
  ∀ t : Transaction,
    ((decodePath t).flatMap instrReads).Pairwise (fun rd rd' => rd.1 + rd.2 ≤ rd'.1 ∨ rd'.1 + rd'.2 ≤ rd.1)

/-- What an operation does depends on no frame byte but those of its own reads (the spec's own inference R22): with those bytes
the same, it gives the same record and the same output, or the same fault. `DECODE` is left out: it takes the snapshot whole. -/
def Obligations.OperationDependsOnItsReadsOnly : Prop :=
  ∀ (i : Instr) (s : State) (hdr : Window), i ≠ .decode →
    (∀ rd ∈ instrReads i, ∀ k : Nat, rd.1 ≤ k → k < rd.1 + rd.2 →
      s.txn.byte k = Transaction.byte ⟨s.txn.len, hdr⟩ k) →
    match exec i s, exec i { s with txn := ⟨s.txn.len, hdr⟩ } with
    | .next s1, .next s2 =>
        s1.res = s2.res ∧ s1.outValid = s2.outValid ∧ s1.outRes = s2.outRes ∧ s1.point = s2.point
    | .fault f1, .fault f2 => f1 = f2
    | _, _ => False

/-- No frame makes `DECODE` read outside the frame, and the record depends on no byte at or past `LEN` (the
spec's own inference R19). -/
def Obligations.BytesPastLenAreDontCare : Prop :=
  (∀ t : Transaction, ∃ r : Record, decodeFrame t = .ok r) ∧
  ∀ t t' : Transaction, t.len = t'.len →
    (∀ i : Nat, i < min t.len.toNat 94 → t.byte i = t'.byte i) → decodeFrame t = decodeFrame t'

/-- The header bytes FPARSE does not read never affect the record: whatever layer a frame reaches, only the bytes of the fields
that are read there matter. So type of service, total length, identification, fragment fields, header checksum, options, the
unread TCP fields, the transport bytes of another protocol or of a truncated segment, and the payload do not (R61, R62, R70). -/
def Obligations.UnreadHeaderBytesNeverMatter : Prop :=
  ∀ t t' : Transaction, t.len = t'.len →
    (14 ≤ t.len.toNat → ∀ i : Nat, i ≤ 13 → t.byte i = t'.byte i) →
    (15 ≤ t.len.toNat → bytes2 t 12 = 0x0800#16 → t.byte 14 = t'.byte 14) →
    (IpPresent t → ∀ i : Nat, i = 22 ∨ i = 23 ∨ (26 ≤ i ∧ i ≤ 33) → t.byte i = t'.byte i) →
    (let off := (transportOffset (ipIhl (t.byte 14))).toNat
     (IpPresent t → t.byte 23 = 6#8 → off + 20 ≤ t.len.toNat →
       ∀ k : Nat, k ≤ 3 ∨ k = 13 → t.byte (off + k) = t'.byte (off + k)) ∧
     (IpPresent t → t.byte 23 = 17#8 → off + 8 ≤ t.len.toNat →
       ∀ k : Nat, k ≤ 7 → t.byte (off + k) = t'.byte (off + k))) →
    decodeFrame t = decodeFrame t'

/-! ## `DECODE` as a whole -/

/-- The pseudocode of R45, with every read guarded, and the multiplexer structure of R48 and R71 (R71 is the spec's
own inference), with none, give the same record on every frame. So no guarded read ever fails. -/
def Obligations.DecodeEqualsMultiplexerTree : Prop :=
  ∀ t : Transaction, decodeFrame t = .ok (decodeMux t)

/-- The steps of a cycle compute `DECODE`: from the start of a cycle with a transaction at the output, the steps are the
operations R45 runs, each in its place, and after them the record of R45 is presented, the observation has grown by it in a cycle
that counts (R100), and nothing else has changed. That they are several steps is the model's choice (log 1), and so is the
observation held in the state (log 8). -/
def Obligations.StepsOfACycleComputeDecode : Prop :=
  (∀ (s : State) (r : Record), s.point = .start → s.port.known = true → s.decoding = true →
    decodeFrame s.operands = .ok r →
    Host.Core.run Sys2Proof.core (decodePath s.operands).length s =
      Host.Outcome.next (State.deliver { s with txn := s.operands } r)) ∧
  ∀ (s : State) (k : Nat) (i : Instr), s.point = .start → s.port.known = true → s.decoding = true →
    (decodePath s.operands)[k]? = some i →
    ∃ sk : State, Host.Core.run Sys2Proof.core k s = Host.Outcome.next sk ∧ step sk = exec i sk

/-- A result keeps every layer decoded before the decode stopped and holds no layer after it: the statuses agree, the class is
the one they fix, the fields of a layer that is present hold its bytes, and every field not valid for the statuses is 0
(R10 to R13, and R46, the spec's own inference from R45 and R5). -/
def Obligations.RecordHoldsExactlyTheDecodedLayers : Prop :=
  ∀ (t : Transaction) (r : Record), decodeFrame t = .ok r →
    (r.l2Status = .absent ↔ t.len.toNat < 14) ∧
    (r.l3Status ≠ .none ↔ r.l2Status = .present) ∧
    (r.l4Status ≠ .none ↔ r.l3Status = .present) ∧
    r.errClass = errClassOf r.l2Status r.l3Status r.l4Status ∧
    (r.l2Status = .present →
      r.ethDst = bytes6 t 0 ∧ r.ethSrc = bytes6 t 6 ∧ r.ethType = bytes2 t 12) ∧
    (r.l2Status = .absent → r.ethDst = 0#48 ∧ r.ethSrc = 0#48 ∧ r.ethType = 0#16) ∧
    (r.l3Status = .present →
      r.ipTtl = t.byte 22 ∧ r.ipProto = t.byte 23 ∧ r.ipSrc = bytes4 t 26 ∧ r.ipDst = bytes4 t 30 ∧
        r.l4Offset.toNat = 14 + 4 * r.ipIhl.toNat ∧ isTransportOffset r.l4Offset = true) ∧
    (r.l3Status ≠ .present →
      r.ipTtl = 0#8 ∧ r.ipProto = 0#8 ∧ r.ipSrc = 0#32 ∧ r.ipDst = 0#32 ∧ r.l4Offset = 0#7) ∧
    (r.l3Status = .present ∨ r.l3Status = .badVersion ∨ r.l3Status = .badIhl ∨ r.l3Status = .truncHdr →
      r.ipVersion = ipVersion (t.byte 14)) ∧
    (r.l3Status = .none ∨ r.l3Status = .notIpv4 ∨ r.l3Status = .truncEmpty → r.ipVersion = 0#4) ∧
    (r.l3Status = .present ∨ r.l3Status = .badIhl ∨ r.l3Status = .truncHdr → r.ipIhl = ipIhl (t.byte 14)) ∧
    (r.l3Status = .none ∨ r.l3Status = .notIpv4 ∨ r.l3Status = .truncEmpty ∨ r.l3Status = .badVersion →
      r.ipIhl = 0#4) ∧
    (r.l4Status = .tcp ∨ r.l4Status = .udp →
      r.l4Sport = bytes2 t r.l4Offset.toNat ∧ r.l4Dport = bytes2 t (r.l4Offset.toNat + 2)) ∧
    (r.l4Status = .tcp → r.tcpFlags = t.byte (r.l4Offset.toNat + 13)) ∧
    (r.l4Status = .udp →
      r.udpLen = bytes2 t (r.l4Offset.toNat + 4) ∧ r.udpCsum = bytes2 t (r.l4Offset.toNat + 6)) ∧
    (r.l4Status ≠ .tcp → r.l4Status ≠ .udp → r.l4Sport = 0#16 ∧ r.l4Dport = 0#16) ∧
    (r.l4Status ≠ .tcp → r.tcpFlags = 0#8) ∧
    (r.l4Status ≠ .udp → r.udpLen = 0#16 ∧ r.udpCsum = 0#16)

/-- Each code of `l2_status`, `l3_status` and `l4_status` says its outcome, on every frame: the conditions under which the tables
of R6, R7 and R8 give it, and no reserved code ever. -/
def Obligations.StatusCodesSayTheirOutcomes : Prop :=
  ∀ (t : Transaction) (r : Record), decodeFrame t = .ok r →
    let len := t.len.toNat
    let isIp : Prop := bytes2 t 12 = 0x0800#16
    let isV4 : Prop := 15 ≤ len ∧ isIp ∧ (t.byte 14).extractLsb' 4 4 = 4#4
    let ihl := ((t.byte 14).extractLsb' 0 4).toNat
    let off := 14 + 4 * ihl
    (r.l2Status.code = 0#1 ↔ len < 14) ∧ (r.l2Status.code = 1#1 ↔ 14 ≤ len) ∧
    (r.l3Status.code = 0#3 ↔ len < 14) ∧
    (r.l3Status.code = 1#3 ↔ 14 ≤ len ∧ ¬ isIp) ∧
    (r.l3Status.code = 2#3 ↔ isV4 ∧ 5 ≤ ihl ∧ off ≤ len) ∧
    (r.l3Status.code = 3#3 ↔ 15 ≤ len ∧ isIp ∧ (t.byte 14).extractLsb' 4 4 ≠ 4#4) ∧
    (r.l3Status.code = 4#3 ↔ isV4 ∧ ihl < 5) ∧
    (r.l3Status.code = 5#3 ↔ isV4 ∧ 5 ≤ ihl ∧ len < off) ∧
    (r.l3Status.code = 6#3 ↔ len = 14 ∧ isIp) ∧ r.l3Status.code ≠ 7#3 ∧
    (r.l4Status.code = 0#3 ↔ r.l3Status.code ≠ 2#3) ∧
    (r.l4Status.code = 1#3 ↔ r.l3Status.code = 2#3 ∧ t.byte 23 = 6#8 ∧ off + 20 ≤ len) ∧
    (r.l4Status.code = 2#3 ↔ r.l3Status.code = 2#3 ∧ t.byte 23 = 17#8 ∧ off + 8 ≤ len) ∧
    (r.l4Status.code = 3#3 ↔ r.l3Status.code = 2#3 ∧ t.byte 23 = 6#8 ∧ len < off + 20) ∧
    (r.l4Status.code = 4#3 ↔ r.l3Status.code = 2#3 ∧ t.byte 23 = 17#8 ∧ len < off + 8) ∧
    (r.l4Status.code = 5#3 ↔ r.l3Status.code = 2#3 ∧ t.byte 23 ≠ 6#8 ∧ t.byte 23 ≠ 17#8) ∧
    (r.l4Status.code = 5#3 → r.ipProto = t.byte 23) ∧ r.l4Status.code ≠ 6#3 ∧ r.l4Status.code ≠ 7#3

/-- The outcome table: the statuses and the class of a record are those of the row of the one terminal operation that ended
its decode (R73). -/
def Obligations.OutcomeTableHolds : Prop :=
  ∀ (t : Transaction) (r : Record) (i : Instr),
    decodeFrame t = .ok r → (decodePath t).getLast? = some i → outcomeCodes i = some r.codes

/-! ## Reset and the invariant -/

/-- Right after reset, at every depth, every valid bit is 0 and `out_valid` is 0 (R16, R89). The depth of `State.reset`, the
payloads and `out_res` are the model's choice (logs 2 and 3) and no clause speaks of them. -/
def Obligations.ResetClearsValidBits : Prop :=
  ∀ p : Nat, (State.resetAt p).stages.length = p ∧ (∀ st ∈ (State.resetAt p).stages, st.v = false) ∧
    (State.resetAt p).outValid = false ∧ (State.resetAt p).observed = []

/-- The invariant holds right after reset, at every depth of D12, and so in `State.reset` (whose depth is the model's choice,
log 2), and in every power-up state (log 12). -/
def Obligations.InvariantHoldsAtReset : Prop :=
  (∀ p : Nat, p ≤ 3 → (State.resetAt p).Inv) ∧ State.reset.Inv ∧ ∀ s : State, s.PowerUp → s.Inv

/-- Every step keeps the invariant: the decode under way agrees with R45, the outputs are those of R86 and R87, every
record observed is `DECODE` of its transaction, in cycle order, at most one a cycle; once a reset has ended no valid bit stands
from power-up, and before that nothing is observed. The points and the observation are the model's (logs 1, 8 and 12). -/
def Obligations.StepKeepsInvariant : Prop :=
  ∀ s s' : State, s.Inv → step s = .next s' → s'.Inv

/-- From a state of the invariant with known control inputs a step always answers a next state: no read leaves the frame, no
selector is without an operation, and no input is illegal (R43, R72, and the spec's own inference R19). -/
def Obligations.StepNeverStopsInInvariant : Prop :=
  ∀ s : State, s.Inv → s.port.known = true → ∃ s' : State, step s = .next s'

/-! ## Cycles -/

/-- The steps of one cycle are one whole cycle at once, `State.wholeCycle`: the outputs and the stages of R86 and R87; a free
`out_res` where none is specified (R90, U4) or a valid bit of power-up is presented (R92, U7); free payloads where R89 and U5
leave them open; and the observation of R100. The model's choices: that a cycle is several steps (log 1), the free values and
their index (logs 4, 5, 9 and 12), the queue of the host's port values (log 7) and the observation held in the state (log 8). -/
def Obligations.RunOfStepsIsOneCycle : Prop :=
  ∀ s : State, s.point = .start → s.port.known = true → runCycle s = .next s.wholeCycle

/-- A cycle's outputs: with no stage, those of R86; with stages, those of R87, not gated by `rst`. For a valid bit of power-up
`out_res` is a free value and nothing is observed (R92, U7; the mark and the free value are the model's choice, log 12, its
index too, log 9). That a cycle is a run of steps is log 1, and the observation held in the state log 8. -/
def Obligations.CycleOutputs : Prop :=
  ∀ s : State, s.point = .start → s.port.known = true → ∃ s' : State, runCycle s = .next s' ∧
    (s.stages = [] →
      (s'.outValid = true ↔ s.port.inValid = .high ∧ s.port.rst = .low) ∧
      (s'.outValid = true → s'.outRes = (decodeMux s.port.txn).pack)) ∧
    (∀ st : Stage, s.stages.getLast? = some st →
      s'.outValid = st.v ∧
      (st.v = true → st.accepted = true → s'.outRes = (decodeMux st.d).pack) ∧
      (st.v = true → st.accepted = false →
        s'.outRes = Config.freeRecord s.freeCount ∧ s'.observed = s.observed))

/-- The clock edge without reset: `S[0]` takes the port, `S[k]` takes `S[k-1]`, and the number of stages stays (R87). -/
def Obligations.ClockEdgeShiftsStages : Prop :=
  ∀ s : State, s.port.rst = .low →
    s.clockEdge.stages.length = s.stages.length ∧
    (∀ st : Stage, s.clockEdge.stages[0]? = some st →
      (st.v = true ↔ s.port.inValid = .high) ∧
      (s.port.inValid = .high → st.d = s.port.txn ∧ st.accepted = true)) ∧
    (∀ k : Nat, k + 1 < s.stages.length → s.clockEdge.stages[k + 1]? = s.stages[k]?)

/-- Acceptance: with at least one stage, `v[0]` after a cycle is 1 exactly when `in_valid` was 1 and `rst` was 0 in it, and
then `d[0]` is the operands of that cycle (R85). -/
def Obligations.AcceptedExactlyWhenValidAndNotReset : Prop :=
  ∀ (s : State) (st : Stage), s.port.known = true → s.clockEdge.stages[0]? = some st →
    (st.v = true ↔ s.port.inValid = .high ∧ s.port.rst = .low) ∧
    (st.v = true → st.d = s.port.txn ∧ st.accepted = true)

/-- A reset cycle from any state whatever, a power-up state among them, leaves every valid bit 0 and the number of stages as it
was, and the next cycle, if it has a stage, presents nothing (R89, R92, R93). From then on cycles count for the observation
(R100; log 8). -/
def Obligations.ResetCycleEmptiesPipeline : Prop :=
  ∀ s : State, s.point = .start → s.port.known = true → s.port.rst = .high →
    ∃ s' : State, runCycle s = .next s' ∧ s'.point = .start ∧ s'.stages.length = s.stages.length ∧
      (∀ st ∈ s'.stages, st.v = false) ∧ s'.resetSeen = true ∧ s'.observing = true ∧
      (s'.stages ≠ [] → s'.port.known = true → ∃ s'' : State, runCycle s' = .next s'' ∧ s''.outValid = false)

/-- Before the first reset has ended nothing is observed, whatever is presented, when there is a stage; the first reset is the
first cycle with `rst = 1` (R92, R100, U7). That the state holds the observation and whether a reset has ended is the model's
choice (log 8). -/
def Obligations.NothingIsObservedBeforeTheFirstReset : Prop :=
  ∀ s : State, s.point = .start → s.port.known = true → s.stages ≠ [] → s.resetSeen = false →
    ∃ s' : State, runCycle s = .next s' ∧ s'.observed = s.observed ∧
      (s'.resetSeen = true ↔ s.port.rst = .high)

/-- Latency: a transaction accepted in cycle `t` is presented in cycle `t + P` when `rst` is 0 in the cycles `t + 1` to
`t + P - 1` (R87, and the spec's own inference R88), and observed there if cycles count by then (the observation is held by
the model, log 8). The control inputs are known in the cycles run. -/
def Obligations.LatencyIsPipeDepth : Prop :=
  ∀ (s : State) (p : Nat), s.point = .start → s.stages.length = p →
    s.port.inValid = .high → s.port.rst = .low →
    (∀ q ∈ s.pending.take p, q.known = true) → (∀ q ∈ s.pending.take (p - 1), q.rst = .low) →
    ∃ s' : State, runCycles (p + 1) s = .next s' ∧ s'.outValid = true ∧
      s'.outRes = (decodeMux s.port.txn).pack ∧
      (s.observing = true →
        (⟨s.cycle + p, s.port.txn, (decodeMux s.port.txn).pack⟩ : Presented) ∈ s'.observed)

/-- A reset in one of the cycles `t + 1` to `t + P - 1` discards the transaction accepted in cycle `t`: nothing is presented in
cycle `t + P` (R91). -/
def Obligations.ResetDiscardsInFlight : Prop :=
  ∀ (s : State) (p : Nat), s.point = .start → s.stages.length = p → s.port.known = true →
    (∀ q ∈ s.pending.take p, q.known = true) → (∃ q ∈ s.pending.take (p - 1), q.rst = .high) →
    ∃ s' : State, runCycles (p + 1) s = .next s' ∧ s'.outValid = false

/-- A stream of cycles without reset into an empty pipeline: the records presented are `DECODE` of the transactions that were
presented with `in_valid = 1`, each once, in order, each `P` cycles after its own, whatever idle cycles lie between; then the
run has ended (R28, R87, R100, and the spec's own inferences R88, R94 and R101). The observation is held by the model, and the
cycles count for it (log 8). -/
def Obligations.StreamDecodesInOrder : Prop :=
  ∀ (s : State) (p : Nat), s.point = .start → s.stages.length = p → (∀ st ∈ s.stages, st.v = false) →
    s.observing = true → (∀ q ∈ s.port :: s.pending, q.known = true ∧ q.rst = .low) →
    ∃ s' : State, runCycles ((s.port :: s.pending).length + p) s = .next s' ∧
      s'.observed = s.observed ++
        (s.port :: s.pending).zipIdx.filterMap (fun qk =>
          if qk.1.inValid = .high
          then some (⟨s.cycle + qk.2 + p, qk.1.txn, (decodeMux qk.1.txn).pack⟩ : Presented) else none) ∧
      s'.runEnded = true

/-- The record presented in a cycle depends only on the transaction at the output: two states that agree on it, whatever else
they hold of earlier transactions, present the same record (R2, and the spec's own inferences R74 and R101). -/
def Obligations.RecordIndependentOfHistory : Prop :=
  ∀ s1 s2 : State, s1.point = .start → s2.point = .start → s1.port.known = true → s2.port.known = true →
    s1.decoding = true → s2.decoding = true → s1.operands = s2.operands →
    ∃ s1' s2' : State, runCycle s1 = .next s1' ∧ runCycle s2 = .next s2' ∧
      s1'.outValid = true ∧ s2'.outValid = true ∧ s1'.outRes = s2'.outRes

/-- A run that has ended stays ended and presents nothing more (R100). -/
def Obligations.EndedRunPresentsNothing : Prop :=
  ∀ s : State, s.point = .start → s.port.known = true → s.runEnded = true →
    ∃ s' : State, runCycle s = .next s' ∧ s'.runEnded = true ∧ s'.outValid = false ∧ s'.observed = s.observed

/-! ## The host's side -/

/-- What the host drives for a frame: its true length and its first 94 bytes, in their lanes; a frame longer than 65535 bytes is
refused (R95 duties 1 to 3, R3). -/
def Obligations.FrameIsDrivenInItsLanes : Prop :=
  ∀ frame : List Byte,
    (frame.length ≤ 65535 → ∃ p : PortIn, portOfFrame frame = .ok p ∧ p.inValid = .high ∧
      p.txn.len.toNat = frame.length ∧
      ∀ (i : Nat) (b : Byte), i < 94 → frame[i]? = some b → p.txn.byte i = b) ∧
    (65535 < frame.length → portOfFrame frame = .error .frameTooLong)

/-- End to end for TCP: a frame written from its fields in the notation of R44, with any legal IHL, any options, any payload
and any values of the fields that are not read, decodes to exactly those fields (R50, R58, R65). -/
def Obligations.TcpFrameDecodesToItsFields : Prop :=
  ∀ (e : EthLayer) (h : Ipv4Layer) (d : TcpLayer) (payload frame : List Byte),
    e.type = 0x0800#16 → h.ver = 4#4 → 5 ≤ h.ihl.toNat → (h.proto = none ∨ h.proto = some 6#8) →
    layersBytes [.eth e, .ipv4 h, .tcp d, .bytes payload] = some frame → frame.length ≤ 65535 →
    decodeFrame (transactionOf frame) = .ok {
      Record.zero with
      l2Status := .present, l3Status := .present, l4Status := .tcp
      ethDst := e.dst, ethSrc := e.src, ethType := 0x0800#16
      ipVersion := 4#4, ipIhl := h.ihl, ipTtl := h.ttl, ipProto := 6#8, ipSrc := h.src, ipDst := h.dst
      l4Offset := transportOffset h.ihl
      l4Sport := d.sport, l4Dport := d.dport, tcpFlags := d.flags }

/-- End to end for UDP, its length field as given or as the notation's default, 8 and the payload (R44, R50, R58, R67). -/
def Obligations.UdpFrameDecodesToItsFields : Prop :=
  ∀ (e : EthLayer) (h : Ipv4Layer) (d : UdpLayer) (payload frame : List Byte),
    e.type = 0x0800#16 → h.ver = 4#4 → 5 ≤ h.ihl.toNat → (h.proto = none ∨ h.proto = some 17#8) →
    layersBytes [.eth e, .ipv4 h, .udp d, .bytes payload] = some frame → frame.length ≤ 65535 →
    decodeFrame (transactionOf frame) = .ok {
      Record.zero with
      l2Status := .present, l3Status := .present, l4Status := .udp
      ethDst := e.dst, ethSrc := e.src, ethType := 0x0800#16
      ipVersion := 4#4, ipIhl := h.ihl, ipTtl := h.ttl, ipProto := 17#8, ipSrc := h.src, ipDst := h.dst
      l4Offset := transportOffset h.ihl
      l4Sport := d.sport, l4Dport := d.dport
      udpLen := d.len.getD (BitVec.ofNat 16 (8 + payload.length)), udpCsum := d.csum }
end

