-- ==== Sys2Proof/Laws/State.lean ====
section
/-! SUPPORT. One lemma per field per update of State: no later proof unfolds a record update. -/

namespace Sys2Proof.Machine

section Deliver
variable (s : State) (r : Record)

@[simp] theorem deliver_stages : (s.deliver r).stages = s.stages := rfl
@[simp] theorem deliver_port : (s.deliver r).port = s.port := rfl
@[simp] theorem deliver_pending : (s.deliver r).pending = s.pending := rfl
@[simp] theorem deliver_point : (s.deliver r).point = .edge := rfl
@[simp] theorem deliver_txn : (s.deliver r).txn = s.txn := rfl
@[simp] theorem deliver_res : (s.deliver r).res = r := rfl
@[simp] theorem deliver_outValid : (s.deliver r).outValid = true := rfl
@[simp] theorem deliver_outRes : (s.deliver r).outRes = r.pack := rfl
@[simp] theorem deliver_observed :
    (s.deliver r).observed = if s.observing then s.observed ++ [⟨s.cycle, s.txn, r.pack⟩] else s.observed := rfl
@[simp] theorem deliver_resetSeen : (s.deliver r).resetSeen = s.resetSeen := rfl
@[simp] theorem deliver_observing : (s.deliver r).observing = s.observing := rfl
@[simp] theorem deliver_decoding : (s.deliver r).decoding = s.decoding := rfl
@[simp] theorem deliver_cycle : (s.deliver r).cycle = s.cycle := rfl
@[simp] theorem deliver_freeCount : (s.deliver r).freeCount = s.freeCount := rfl
@[simp] theorem deliver_presenting : (s.deliver r).presenting = s.presenting := rfl
@[simp] theorem deliver_operands : (s.deliver r).operands = s.operands := rfl

end Deliver

section Idle
variable (s : State)

@[simp] theorem idle_stages : s.idle.stages = s.stages := rfl
@[simp] theorem idle_port : s.idle.port = s.port := rfl
@[simp] theorem idle_pending : s.idle.pending = s.pending := rfl
@[simp] theorem idle_point : s.idle.point = .edge := rfl
@[simp] theorem idle_txn : s.idle.txn = s.txn := rfl
@[simp] theorem idle_res : s.idle.res = s.res := rfl
@[simp] theorem idle_outValid : s.idle.outValid = s.presenting := rfl
@[simp] theorem idle_resetSeen : s.idle.resetSeen = s.resetSeen := rfl
@[simp] theorem idle_observing : s.idle.observing = s.observing := rfl
@[simp] theorem idle_decoding : s.idle.decoding = s.decoding := rfl
@[simp] theorem idle_outRes : s.idle.outRes = Config.freeRecord s.freeCount := rfl
@[simp] theorem idle_observed : s.idle.observed = s.observed := rfl
@[simp] theorem idle_cycle : s.idle.cycle = s.cycle := rfl
@[simp] theorem idle_freeCount : s.idle.freeCount = s.freeCount + 1 := rfl
@[simp] theorem idle_presenting : s.idle.presenting = s.presenting := rfl
@[simp] theorem idle_operands : s.idle.operands = s.operands := rfl

end Idle

section ClockEdge
variable (s : State)

@[simp] theorem clockEdge_stages : s.clockEdge.stages = s.nextStages := rfl
@[simp] theorem clockEdge_port : s.clockEdge.port = s.pending.headD PortIn.idle := rfl
@[simp] theorem clockEdge_pending : s.clockEdge.pending = s.pending.tail := rfl
@[simp] theorem clockEdge_point : s.clockEdge.point = .start := rfl
@[simp] theorem clockEdge_txn : s.clockEdge.txn = s.txn := rfl
@[simp] theorem clockEdge_res : s.clockEdge.res = s.res := rfl
@[simp] theorem clockEdge_outValid : s.clockEdge.outValid = s.outValid := rfl
@[simp] theorem clockEdge_outRes : s.clockEdge.outRes = s.outRes := rfl
@[simp] theorem clockEdge_observed : s.clockEdge.observed = s.observed := rfl
@[simp] theorem clockEdge_resetSeen :
    s.clockEdge.resetSeen = (s.resetSeen || decide (s.port.rst = .high)) := rfl
@[simp] theorem clockEdge_cycle : s.clockEdge.cycle = s.cycle + 1 := rfl
@[simp] theorem clockEdge_freeCount :
    s.clockEdge.freeCount = s.freeCount + s.stages.length + 1 := rfl

end ClockEdge

/-- `out_valid` depends on the stages and the port alone. -/
theorem presenting_congr {s s' : State} (hs : s'.stages = s.stages) (hp : s'.port = s.port) :
    s'.presenting = s.presenting := by
  simp [State.presenting, State.accepted, hs, hp]

/-- So does whether it is one to decode. -/
theorem decoding_congr {s s' : State} (hs : s'.stages = s.stages) (hp : s'.port = s.port) :
    s'.decoding = s.decoding := by
  simp [State.decoding, State.accepted, hs, hp]

/-- So do its operands. -/
theorem operands_congr {s s' : State} (hs : s'.stages = s.stages) (hp : s'.port = s.port) :
    s'.operands = s.operands := by
  simp [State.operands, hs, hp]

/-- A transaction at the output is presented with `out_valid = 1` (70_reset_and_hazards.md R86, R87). -/
theorem presenting_of_decoding {s : State} (h : s.decoding = true) : s.presenting = true := by
  unfold State.decoding at h
  unfold State.presenting
  split at h
  · exact h
  · exact (Bool.and_eq_true_iff.1 h).1

end Sys2Proof.Machine
end

