-- ==== Sys2Proof/Laws/Ops.lean ====
section
/-! SUPPORT. What each shared operation can do, said once: the guarded reads, the stages at a clock edge, and a step. -/

namespace Sys2Proof.Machine

/-- Everything a guarded read can do when it answers (20_memory.md R18). -/
theorem guardRead_eq_ok {α : Type} {t : Transaction} {a n : Nat} {v w : α} :
    guardRead t a n v = .ok w ↔ a + n ≤ t.len.toNat ∧ a + n ≤ Config.hdrBytes ∧ v = w := by
  unfold guardRead
  split
  · simp; omega
  · split
    · simp; omega
    · rename_i h h'
      rw [Except.ok.injEq]
      exact ⟨fun e => ⟨Nat.le_of_not_lt h, Nat.le_of_not_lt h', e⟩, fun e => e.2.2⟩

/-- A guarded read inside the frame and the window answers its value. -/
theorem guardRead_ok {α : Type} {t : Transaction} {a n : Nat} {v : α} (h : a + n ≤ t.len.toNat)
    (hw : a + n ≤ Config.hdrBytes) : guardRead t a n v = .ok v :=
  guardRead_eq_ok.2 ⟨h, hw, rfl⟩

theorem memRead1_ok {t : Transaction} {a : Nat} (h : a + 1 ≤ t.len.toNat) (hw : a + 1 ≤ 94) :
    memRead1 t a = .ok (t.byte a) := guardRead_ok h hw

theorem memRead2_ok {t : Transaction} {a : Nat} (h : a + 2 ≤ t.len.toNat) (hw : a + 2 ≤ 94) :
    memRead2 t a = .ok (bytes2 t a) := guardRead_ok h hw

theorem memRead4_ok {t : Transaction} {a : Nat} (h : a + 4 ≤ t.len.toNat) (hw : a + 4 ≤ 94) :
    memRead4 t a = .ok (bytes4 t a) := guardRead_ok h hw

theorem memRead6_ok {t : Transaction} {a : Nat} (h : a + 6 ≤ t.len.toNat) (hw : a + 6 ≤ 94) :
    memRead6 t a = .ok (bytes6 t a) := guardRead_ok h hw

/-- The outcome of a sequence of reads is a next state only when all of them answer. -/
theorem ofReads_eq_next {r : Except Fault State} {s : State} : ofReads r = .next s ↔ r = .ok s := by
  cases r <;> simp [ofReads]

/-- The result of a sequence of reads is never a refusal. -/
theorem ofReads_ne_refused {r : Except Fault State} {q : Refusal} : ofReads r ≠ .refused q := by
  cases r <;> simp [ofReads]

@[simp] theorem resetStages_length (n : Nat) (l : List Stage) : (resetStages n l).length = l.length := by
  induction l generalizing n with
  | nil => rfl
  | cons _ _ ih => simp [resetStages, ih]

/-- Every stage is invalid after a reset edge (70_reset_and_hazards.md R89). -/
theorem resetStages_invalid {n : Nat} {l : List Stage} {st : Stage} (h : st ∈ resetStages n l) : st.v = false := by
  induction l generalizing n with
  | nil => simp [resetStages] at h
  | cons _ _ ih =>
    simp only [resetStages, List.mem_cons] at h
    rcases h with rfl | h
    · rfl
    · exact ih h

/-- A stage sampled at an edge without reset holds an accepted transaction when it is valid (70_reset_and_hazards.md R85, R87). -/
theorem sampled_accepted {s : State} (h : s.sampled.v = true) : s.sampled.accepted = true := by
  unfold State.sampled at h ⊢
  split
  · rfl
  · rename_i hi
    rw [if_neg hi] at h; cases h

@[simp] theorem shiftStages_length (new : Stage) (l : List Stage) : (shiftStages new l).length = l.length := by
  induction l generalizing new with
  | nil => rfl
  | cons _ _ ih => simp [shiftStages, ih]

/-- The shift as a list: the new stage in front, the last one dropped (70_reset_and_hazards.md R87). -/
theorem shiftStages_eq_take (new : Stage) (l : List Stage) : shiftStages new l = (new :: l).take l.length := by
  induction l generalizing new with
  | nil => rfl
  | cons st rest ih => simp [shiftStages, ih]

@[simp] theorem nextStages_length (s : State) : s.nextStages.length = s.stages.length := by
  unfold State.nextStages
  split <;> simp

/-- The one selector with no transaction is the valid bit 0 (70_reset_and_hazards.md R85). -/
theorem decode_noTransaction {x : Selector} (h : decode x = .error .noTransaction) : x = .transaction false := by
  cases x with
  | transaction valid =>
    cases valid
    · rfl
    · cases h
  | layer2 len => simp only [decode, decodeLayer2] at h; split at h <;> cases h
  | ethType type len => simp only [decode, decodeEthType] at h; (repeat' split at h) <;> cases h
  | ipv4 b0 len => simp only [decode, decodeIpv4] at h; (repeat' split at h) <;> cases h
  | proto p off len => simp only [decode, decodeProto] at h; (repeat' split at h) <;> cases h

/-- A valid bit is fetched at the start of a cycle only (40_decode_top.md R45). -/
theorem fetch_transaction {s : State} {valid : Bool} (h : fetch s = .selector (.transaction valid)) :
    s.point = .start ∧ s.decoding = valid := by
  unfold fetch at h
  split at h
  · rename_i hp
    cases h
    exact ⟨hp, rfl⟩
  all_goals (repeat' split at h) <;> cases h

/-- The clock edge is fetched at the edge only. -/
theorem fetch_edge {s : State} (h : fetch s = .edge) : s.point = .edge := by
  unfold fetch at h
  (repeat' split at h) <;> first | assumption | cases h

/-- Everything a step can do: the control inputs are known, and it is the clock edge, an idle presentation, or the operation
that is selected. -/
theorem step_eq_next {s s' : State} (h : step s = .next s') :
    s.port.known = true ∧
      ((s.point = .edge ∧ s' = s.clockEdge) ∨
        (s.point = .start ∧ s.decoding = false ∧ s' = s.idle) ∨
        ∃ x i, fetch s = .selector x ∧ decode x = .ok i ∧ exec i s = .next s') := by
  unfold step at h
  split at h
  case isFalse => cases h
  case isTrue hk =>
    refine ⟨hk, ?_⟩
    unfold stepAt at h
    split at h
    case h_1 he =>
      cases h
      exact .inl ⟨fetch_edge he, rfl⟩
    case h_2 => cases h
    case h_3 x hx =>
      split at h
      case h_1 i hi => exact .inr (.inr ⟨x, i, hx, hi, h⟩)
      case h_2 hd =>
        cases h
        rw [decode_noTransaction hd] at hx
        exact .inr (.inl ⟨(fetch_transaction hx).1, (fetch_transaction hx).2, rfl⟩)
      all_goals cases h

end Sys2Proof.Machine
end

