-- ==== Sys2Proof/Laws/Exec.lean ====
section
/-! SUPPORT. What the operations that read the frame can do, said once each: the bytes they need, and the next state. -/

namespace Sys2Proof.Machine

/-- A read followed by more reads answers only when both do. -/
theorem bind_eq_ok {α β : Type} {x : Except Fault α} {f : α → Except Fault β} {b : β} :
    x >>= f = .ok b ↔ ∃ a, x = .ok a ∧ f a = .ok b := by
  cases x <;> simp [bind, Except.bind]

/-- `ETH_HDR` answers a next state only with 14 bytes in the frame (41_ethernet.md R50). -/
theorem execEthHdr_next {s s' : State} (h : execEthHdr s = .next s') :
    14 ≤ s.txn.len.toNat ∧
      s' = { s with
        res := { s.res with
          l2Status := .present, ethDst := bytes6 s.txn 0, ethSrc := bytes6 s.txn 6, ethType := bytes2 s.txn 12 }
        point := .afterEth } := by
  rw [execEthHdr, ofReads_eq_next] at h
  obtain ⟨v1, h1, h⟩ := bind_eq_ok.1 h
  obtain ⟨v2, h2, h⟩ := bind_eq_ok.1 h
  obtain ⟨v3, h3, h⟩ := bind_eq_ok.1 h
  obtain ⟨-, -, rfl⟩ := guardRead_eq_ok.1 h1
  obtain ⟨-, -, rfl⟩ := guardRead_eq_ok.1 h2
  obtain ⟨hl, -, rfl⟩ := guardRead_eq_ok.1 h3
  exact ⟨hl, (Except.ok.inj h).symm⟩

/-- `IP_HDR` answers a next state only with 34 bytes in the frame (42_ipv4.md R58). -/
theorem execIpHdr_next {b0 : Byte} {off : Offset} {s s' : State} (h : execIpHdr b0 off s = .next s') :
    34 ≤ s.txn.len.toNat ∧
      s' = { s with
        res := { s.res with
          l3Status := .present, ipVersion := ipVersion b0, ipIhl := ipIhl b0, ipTtl := s.txn.byte 22,
          ipProto := s.txn.byte 23, ipSrc := bytes4 s.txn 26, ipDst := bytes4 s.txn 30, l4Offset := off }
        point := .layer4 } := by
  rw [execIpHdr, ofReads_eq_next] at h
  obtain ⟨v1, h1, h⟩ := bind_eq_ok.1 h
  obtain ⟨v2, h2, h⟩ := bind_eq_ok.1 h
  obtain ⟨v3, h3, h⟩ := bind_eq_ok.1 h
  obtain ⟨v4, h4, h⟩ := bind_eq_ok.1 h
  obtain ⟨-, -, rfl⟩ := guardRead_eq_ok.1 h1
  obtain ⟨-, -, rfl⟩ := guardRead_eq_ok.1 h2
  obtain ⟨-, -, rfl⟩ := guardRead_eq_ok.1 h3
  obtain ⟨hl, -, rfl⟩ := guardRead_eq_ok.1 h4
  exact ⟨hl, (Except.ok.inj h).symm⟩

/-- `TCP_HDR(off)` answers a next state only with byte `off + 13` in the frame (43_transport.md R65). -/
theorem execTcpHdr_next {off : Offset} {s s' : State} (h : execTcpHdr off s = .next s') :
    off.toNat + 14 ≤ s.txn.len.toNat ∧
      s' = s.deliver { s.res with
        l4Status := .tcp, l4Sport := bytes2 s.txn off.toNat, l4Dport := bytes2 s.txn (off.toNat + 2),
        tcpFlags := s.txn.byte (off.toNat + 13) } := by
  rw [execTcpHdr, ofReads_eq_next] at h
  obtain ⟨v1, h1, h⟩ := bind_eq_ok.1 h
  obtain ⟨v2, h2, h⟩ := bind_eq_ok.1 h
  obtain ⟨v3, h3, h⟩ := bind_eq_ok.1 h
  obtain ⟨-, -, rfl⟩ := guardRead_eq_ok.1 h1
  obtain ⟨-, -, rfl⟩ := guardRead_eq_ok.1 h2
  obtain ⟨hl, -, rfl⟩ := guardRead_eq_ok.1 h3
  exact ⟨hl, (Except.ok.inj h).symm⟩

/-- `UDP_HDR(off)` answers a next state only with 8 bytes from `off` in the frame (43_transport.md R67). -/
theorem execUdpHdr_next {off : Offset} {s s' : State} (h : execUdpHdr off s = .next s') :
    off.toNat + 8 ≤ s.txn.len.toNat ∧
      s' = s.deliver { s.res with
        l4Status := .udp, l4Sport := bytes2 s.txn off.toNat, l4Dport := bytes2 s.txn (off.toNat + 2),
        udpLen := bytes2 s.txn (off.toNat + 4), udpCsum := bytes2 s.txn (off.toNat + 6) } := by
  rw [execUdpHdr, ofReads_eq_next] at h
  obtain ⟨v1, h1, h⟩ := bind_eq_ok.1 h
  obtain ⟨v2, h2, h⟩ := bind_eq_ok.1 h
  obtain ⟨v3, h3, h⟩ := bind_eq_ok.1 h
  obtain ⟨v4, h4, h⟩ := bind_eq_ok.1 h
  obtain ⟨-, -, rfl⟩ := guardRead_eq_ok.1 h1
  obtain ⟨-, -, rfl⟩ := guardRead_eq_ok.1 h2
  obtain ⟨-, -, rfl⟩ := guardRead_eq_ok.1 h3
  obtain ⟨hl, -, rfl⟩ := guardRead_eq_ok.1 h4
  exact ⟨hl, (Except.ok.inj h).symm⟩

/-- No operation is refused: FPARSE refuses nothing (70_reset_and_hazards.md R99). -/
theorem exec_ne_refused (i : Instr) (s : State) (q : Refusal) : exec i s ≠ .refused q := by
  cases i <;> simp [exec, execDecode, execEthShort, execEthHdr, execEthNotIp, execIpEmpty, execIpBadVer, execIpBadIhl,
    execIpTrunc, execIpHdr, execTcpTrunc, execTcpHdr, execUdpTrunc, execUdpHdr, execL4Unsup, ofReads_ne_refused]

end Sys2Proof.Machine
end

