-- ==== Sys2Proof/Laws/Fields.lean ====
section
/-! SUPPORT. The bit-field and byte-lane helpers: the transport offset as a number, and the bytes of a window built from a
list. -/

namespace Sys2Proof

/-- The transport offset never wraps (42_ipv4.md R59). -/
theorem transportOffset_toNat (ihl : BitVec 4) : (transportOffset ihl).toNat = 14 + 4 * ihl.toNat := by
  revert ihl; decide

/-- The offset of a legal IHL is one of the eleven (42_ipv4.md R59). -/
theorem isTransportOffset_transportOffset {ihl : BitVec 4} (h : minIhl ≤ ihl.toNat) :
    isTransportOffset (transportOffset ihl) = true := by
  have : minIhl = 5 := rfl
  have := ihl.isLt
  simp only [isTransportOffset, transportOffset_toNat, decide_eq_true_eq]
  omega

/-- A transport offset lies between 34 and 74. -/
theorem isTransportOffset_bounds {off : Offset} (h : isTransportOffset off = true) :
    34 ≤ off.toNat ∧ off.toNat ≤ 74 := by
  simp [isTransportOffset] at h; omega

/-- Lane `i` of the value of a byte list is its `i`-th byte. -/
theorem lanesValue_lane (bs : List Byte) (i : Nat) :
    lanesValue bs / 256 ^ i % 256 = (bs.getD i 0#8).toNat := by
  induction bs generalizing i with
  | nil => simp [lanesValue]
  | cons b bs ih =>
    have hb : b.toNat < 256 := b.isLt
    cases i with
    | zero => simp [lanesValue]; omega
    | succ i =>
      have : lanesValue (b :: bs) / 256 ^ (i + 1) = lanesValue bs / 256 ^ i := by
        rw [Nat.pow_succ', ← Nat.div_div_eq_div_mul]
        congr 1
        simp [lanesValue]; omega
      rw [this, ih]; simp

/-- The value of `n` bytes fits in `8n` bits. -/
theorem lanesValue_lt (bs : List Byte) : lanesValue bs < 256 ^ bs.length := by
  induction bs with
  | nil => simp [lanesValue]
  | cons b bs ih =>
    have hb : b.toNat < 256 := b.isLt
    simp only [lanesValue, List.length_cons, Nat.pow_succ']
    omega

/-- Byte `i` of the window built from a byte list is its `i`-th byte (70_reset_and_hazards.md R95 duty 1). -/
theorem byte_windowOfBytes (len : Len) (bs : List Byte) {i : Nat} (h : i < 94) :
    Transaction.byte ⟨len, windowOfBytes bs⟩ i = bs.getD i 0#8 := by
  have hl : lanesValue (bs.take 94) < 2 ^ 752 := by
    refine lt_of_lt_of_le (lanesValue_lt _) ?_
    have : (256 : Nat) ^ (bs.take 94).length ≤ 256 ^ 94 :=
      Nat.pow_le_pow_right (by norm_num) (by simp)
    exact le_trans this (le_of_eq (by rw [show (752 : Nat) = 8 * 94 from rfl, Nat.pow_mul]))
  apply BitVec.eq_of_toNat_eq
  simp only [Transaction.byte, windowOfBytes, Config.hdrBytes, BitVec.extractLsb'_toNat, BitVec.toNat_ofNat,
    Nat.mod_eq_of_lt hl, Nat.shiftRight_eq_div_pow]
  rw [Nat.pow_mul]
  have := lanesValue_lane (bs.take 94) i
  norm_num at this ⊢
  rw [this]
  simp [h]

end Sys2Proof
end

