-- ==== Sys2Proof/Laws/PerInstr.lean ====
section
/-! SUPPORT. Statements for all operations, made per operation: what the decoder gives is well-formed. -/

namespace Sys2Proof

/-- Every operation the decoder gives is well-formed (30_encoding.md R40, R41; 42_ipv4.md R59). -/
theorem decode_wellFormed {x : Selector} {i : Instr} (h : decode x = .ok i) : i.wellFormed = true := by
  cases x with
  | transaction valid => cases valid <;> simp [decode] at h; subst h; rfl
  | layer2 len =>
    simp only [decode, decodeLayer2] at h
    split at h <;> (simp at h; subst h; rfl)
  | ethType type len =>
    simp only [decode, decodeEthType] at h
    (repeat' split at h) <;> cases h <;> rfl
  | ipv4 b0 len =>
    simp only [decode, decodeIpv4] at h
    (repeat' split at h) <;> cases h <;> simp_all [Instr.wellFormed]
  | proto p off len =>
    simp only [decode, decodeProto] at h
    split at h
    · simp at h
    · rename_i hoff
      have hoff' : isTransportOffset off = true := by
        cases hb : isTransportOffset off
        · exact absurd (.inl hb) hoff
        · rfl
      split at h
      · split at h <;> (simp at h; subst h; simp [Instr.wellFormed, hoff'])
      · split at h
        · split at h <;> (simp at h; subst h; simp [Instr.wellFormed, hoff'])
        · simp at h; subst h; rfl

namespace Laws.DecodeSound

/-- A selector that selects an operation passes it operands that make it well-formed. -/
def Statement (i : Instr) : Prop := ∀ x : Selector, decode x = .ok i → i.wellFormed = true

theorem decode : Statement .decode := fun _ h => decode_wellFormed h
theorem ethShort : Statement .ethShort := fun _ h => decode_wellFormed h
theorem ethHdr : Statement .ethHdr := fun _ h => decode_wellFormed h
theorem ethNotIp : Statement .ethNotIp := fun _ h => decode_wellFormed h
theorem ipEmpty : Statement .ipEmpty := fun _ h => decode_wellFormed h
theorem ipBadVer (b0 : Byte) : Statement (.ipBadVer b0) := fun _ h => decode_wellFormed h
theorem ipBadIhl (b0 : Byte) : Statement (.ipBadIhl b0) := fun _ h => decode_wellFormed h
theorem ipTrunc (b0 : Byte) : Statement (.ipTrunc b0) := fun _ h => decode_wellFormed h
theorem ipHdr (b0 : Byte) (off : Offset) : Statement (.ipHdr b0 off) := fun _ h => decode_wellFormed h
theorem tcpTrunc : Statement .tcpTrunc := fun _ h => decode_wellFormed h
theorem tcpHdr (off : Offset) : Statement (.tcpHdr off) := fun _ h => decode_wellFormed h
theorem udpTrunc : Statement .udpTrunc := fun _ h => decode_wellFormed h
theorem udpHdr (off : Offset) : Statement (.udpHdr off) := fun _ h => decode_wellFormed h
theorem l4Unsup : Statement .l4Unsup := fun _ h => decode_wellFormed h

end Laws.DecodeSound

end Sys2Proof
end

