-- ==== Sys2Proof/Tests/Slice0.lean ====
section
/-! SUPPORT. Tests: the smoke tests of WellFormed, the decoding of words written out from the dispatch map, one step of each
operation, whole records from 95_test_vectors.md, the clock edge, and a witness for the hypotheses of each statement. -/

set_option Elab.async false

namespace Sys2Proof.Tests

open Sys2Proof Sys2Proof.Machine

/-- A transaction of the given length and first bytes, the later lanes 0. -/
def txn (len : Nat) (bs : List Nat) : Transaction := ⟨BitVec.ofNat 16 len, windowOfBytes (bs.map (BitVec.ofNat 8))⟩

/-- The state after reset with a decode under way. -/
def at_ (p : Point) (t : Transaction) (r : Record) : State := { State.reset with point := p, txn := t, res := r }

/-- The state after reset with `p` stages, each holding a valid transaction or none, and port values. -/
def cyc (stages : List (Option Transaction)) (port : PortIn) : State :=
  { State.reset with
    stages := stages.map fun o => match o with
      | some t => ⟨true, t, true⟩
      | none => ⟨false, ⟨0#16, 0#752⟩, false⟩
    port := port }

/-- A power-up state of one stage with its valid bit 1. -/
def spurious (t : Transaction) (port : PortIn) : State :=
  { State.reset with stages := [⟨true, t, false⟩], port := port, resetSeen := false }

/-- A port that presents a transaction. -/
def present (t : Transaction) : PortIn := ⟨.low, .high, t⟩

/-- The next state of an outcome, if it is one. -/
def nextOf (o : Host.Outcome State Fault Refusal) : Option State :=
  match o with
  | .next s => some s
  | _ => none

/-- The packed record of `DECODE`, if no read faults. -/
def packed (t : Transaction) : Option RecordBits :=
  match decodeFrame t with
  | .ok r => some r.pack
  | .error _ => none

/-! ## Frames of 95_test_vectors.md -/

/-- The two MAC addresses of every vector, the defaults of 30_encoding.md R44. -/
def macs : List Nat := [0x00, 0x11, 0x22, 0x33, 0x44, 0x55, 0x66, 0x77, 0x88, 0x99, 0xaa, 0xbb]

/-- V-S1b. -/
def frameS1b : Transaction := txn 13 (macs ++ [0x08])

/-- V-S2. -/
def frameS2 : Transaction := txn 42 (macs ++ [0x08, 0x06] ++ List.replicate 28 0x00)

/-- V-S3.15. -/
def frameS3 : Transaction := txn 82 (macs ++ [0x08, 0x00, 0x4f, 0x00, 0x00, 0x44, 0x00, 0x00, 0x00, 0x00, 0x40, 0x11,
  0x00, 0x00, 0xc0, 0xa8, 0x00, 0x01, 0xc0, 0xa8, 0x00, 0x02] ++ List.replicate 40 0xaa ++ [0x13, 0x88, 0x00, 0x35,
  0x00, 0x08, 0x00, 0x00])

/-- V-S4. -/
def frameS4 : Transaction := txn 53 (macs ++ [0x08, 0x00, 0x45, 0x00, 0x00, 0x28, 0x00, 0x00, 0x00, 0x00, 0x40, 0x06,
  0x00, 0x00, 0xc0, 0xa8, 0x00, 0x01, 0xc0, 0xa8, 0x00, 0x02, 0x30, 0x39, 0x00, 0x50] ++ List.replicate 8 0x00 ++
  [0x50, 0x02, 0x00, 0x00, 0x00, 0x00, 0x00])

/-- V-S5. -/
def frameS5 : Transaction := txn 54 (macs ++ [0x08, 0x00, 0x45, 0x00, 0x00, 0x28, 0x00, 0x00, 0x00, 0x00, 0x40, 0x06,
  0x00, 0x00, 0xc0, 0xa8, 0x00, 0x01, 0xc0, 0xa8, 0x00, 0x02, 0x01, 0xbb, 0xc7, 0x38] ++ List.replicate 8 0x00 ++
  [0x50, 0x00, 0x00, 0x00, 0x00, 0x00, 0x00, 0x00])

/-- V-S6. -/
def frameS6 : Transaction := txn 54 (macs ++ [0x08, 0x00, 0x45, 0x00, 0x00, 0x28, 0x00, 0x00, 0x00, 0x00, 0x40, 0x06,
  0x00, 0x00, 0xc0, 0xa8, 0x00, 0x01, 0xc0, 0xa8, 0x00, 0x02, 0x30, 0x39, 0x00, 0x50] ++ List.replicate 8 0x00 ++
  [0x50, 0x02, 0x00, 0x00, 0x00, 0x00, 0x00, 0x00])

/-- V-S7b. -/
def frameS7b : Transaction := txn 54 (macs ++ [0x08, 0x00, 0x48, 0x00, 0x00, 0x28, 0x00, 0x00, 0x00, 0x00, 0x40, 0x11,
  0x00, 0x00, 0xc0, 0xa8, 0x00, 0x01, 0xc0, 0xa8, 0x00, 0x02] ++ List.replicate 12 0x01 ++ [0x13, 0x88, 0x00, 0x35,
  0x00, 0x08, 0x00, 0x00])

/-- V-E1. -/
def frameE1 : Transaction := txn 14 (macs ++ [0x86, 0xdd])

/-- V-E5. -/
def frameE5 : Transaction := txn 34 (macs ++ [0x08, 0x01] ++ List.replicate 20 0x00)

/-- V-I1. -/
def frameI1 : Transaction := txn 14 (macs ++ [0x08, 0x00])

/-- V-I3. -/
def frameI3 : Transaction := txn 15 (macs ++ [0x08, 0x00, 0x65])

/-- V-I6. -/
def frameI6 : Transaction := txn 15 (macs ++ [0x08, 0x00, 0x40])

/-- V-I7.4. -/
def frameI7 : Transaction := txn 54 (macs ++ [0x08, 0x00, 0x44, 0x00, 0x00, 0x24, 0x00, 0x00, 0x00, 0x00, 0x40, 0x06,
  0x00, 0x00, 0xc0, 0xa8, 0x00, 0x01, 0xc0, 0xa8, 0x00, 0x02, 0x00, 0x01, 0x00, 0x02] ++ List.replicate 8 0x00 ++
  [0x50, 0x00, 0x00, 0x00, 0x00, 0x00, 0x00, 0x00])

/-- V-I11. -/
def frameI11 : Transaction := txn 73 (macs ++ [0x08, 0x00, 0x4f, 0x00, 0x00, 0x3c, 0x00, 0x00, 0x00, 0x00, 0x40, 0x11,
  0x00, 0x00, 0xc0, 0xa8, 0x00, 0x01, 0xc0, 0xa8, 0x00, 0x02] ++ List.replicate 39 0x00)

/-- V-I13. -/
def frameI13 : Transaction := txn 70 (macs ++ [0x08, 0x00, 0x4f, 0x00, 0x00, 0x3c, 0x00, 0x00, 0x00, 0x00, 0x40, 0x06,
  0x00, 0x00, 0xc0, 0xa8, 0x00, 0x01, 0xc0, 0xa8, 0x00, 0x02] ++ List.replicate 36 0x00)

/-- V-I14. -/
def frameI14 : Transaction := txn 42 (macs ++ [0x08, 0x00, 0x45, 0xff, 0x00, 0x01, 0xff, 0xff, 0xff, 0xff, 0x00, 0x11,
  0xbe, 0xef, 0xff, 0xff, 0xff, 0xff] ++ List.replicate 12 0x00)

/-- V-T4. -/
def frameT4 : Transaction := txn 94 (macs ++ [0x08, 0x00, 0x4f, 0x00, 0x00, 0x50, 0x00, 0x00, 0x00, 0x00, 0x40, 0x06,
  0x00, 0x00, 0xc0, 0xa8, 0x00, 0x01, 0xc0, 0xa8, 0x00, 0x02] ++ List.replicate 40 0x44 ++ [0xab, 0xcd, 0x12, 0x34] ++
  List.replicate 8 0x00 ++ [0x50, 0x18, 0x00, 0x00, 0x00, 0x00, 0x00, 0x00])

/-- V-T5. -/
def frameT5 : Transaction := txn 93 (macs ++ [0x08, 0x00, 0x4f, 0x00, 0x00, 0x50, 0x00, 0x00, 0x00, 0x00, 0x40, 0x06,
  0x00, 0x00, 0xc0, 0xa8, 0x00, 0x01, 0xc0, 0xa8, 0x00, 0x02] ++ List.replicate 40 0x44 ++ [0xab, 0xcd, 0x12, 0x34] ++
  List.replicate 8 0x00 ++ [0x50, 0x18, 0x00, 0x00, 0x00, 0x00, 0x00])

/-- V-T6. -/
def frameT6 : Transaction := txn 41 (macs ++ [0x08, 0x00, 0x45, 0x00, 0x00, 0x1c, 0x00, 0x00, 0x00, 0x00, 0x40, 0x11,
  0x00, 0x00, 0xc0, 0xa8, 0x00, 0x01, 0xc0, 0xa8, 0x00, 0x02, 0x00, 0x35, 0x04, 0x00, 0x00, 0x08, 0x12])

/-- V-T7. -/
def frameT7 : Transaction := txn 42 (macs ++ [0x08, 0x00, 0x45, 0x00, 0x00, 0x1c, 0x00, 0x00, 0x00, 0x00, 0x40, 0x11,
  0x00, 0x00, 0xc0, 0xa8, 0x00, 0x01, 0xc0, 0xa8, 0x00, 0x02, 0x00, 0x35, 0x04, 0x00, 0x00, 0x08, 0x12, 0x34])

/-- V-T9. -/
def frameT9 : Transaction := txn 34 (macs ++ [0x08, 0x00, 0x45, 0x00, 0x00, 0x14, 0x00, 0x00, 0x00, 0x00, 0x40, 0x01,
  0x00, 0x00, 0xc0, 0xa8, 0x00, 0x01, 0xc0, 0xa8, 0x00, 0x02])

/-- V-T11. -/
def frameT11 : Transaction := txn 38 (macs ++ [0x08, 0x00, 0x46, 0x00, 0x00, 0x18, 0x00, 0x00, 0x00, 0x00, 0x40, 0xff,
  0x00, 0x00, 0xc0, 0xa8, 0x00, 0x01, 0xc0, 0xa8, 0x00, 0x02, 0x06, 0x11, 0x00, 0x00])

/-! ## Whole records, with the expected values of 95_test_vectors.md -/

/-- The scenarios V-S of the source's own tests. -/
theorem test_records_source :
    packed frameS1b = some 0x80#288 ∧
    packed frameS2 = some 0x80666778899aabb0011223344550003#288 ∧
    packed frameS3 = some 0x80000351388c0a80002c0a800011140f4080066778899aabb0011223344559425#288 ∧
    packed frameS4 = some 0xc0a80002c0a80001064054080066778899aabb00112233445544b5#288 ∧
    packed frameS5 = some 0xc73801bbc0a80002c0a80001064054080066778899aabb0011223344554415#288 ∧
    packed frameS6 = some 0x200503039c0a80002c0a80001064054080066778899aabb0011223344554415#288 ∧
    packed frameS7b = some 0x80000351388c0a80002c0a80001114084080066778899aabb0011223344555c25#288 := by decide +kernel

/-- The Ethernet outcomes V-E. -/
theorem test_records_ethernet :
    packed frameE1 = some 0x86dd66778899aabb0011223344550003#288 ∧
    packed frameE5 = some 0x80166778899aabb0011223344550003#288 := by decide +kernel

/-- The IPv4 outcomes V-I. -/
theorem test_records_ipv4 :
    packed frameI1 = some 0x80066778899aabb001122334455008d#288 ∧
    packed frameI3 = some 0x6080066778899aabb0011223344550107#288 ∧
    packed frameI6 = some 0x4080066778899aabb0011223344550189#288 ∧
    packed frameI7 = some 0x44080066778899aabb0011223344550189#288 ∧
    packed frameI11 = some 0xf4080066778899aabb001122334455008b#288 ∧
    packed frameI13 = some 0xf4080066778899aabb001122334455008b#288 ∧
    packed frameI14 = some 0xffffffff110054080066778899aabb0011223344554425#288 := by decide +kernel

/-- The transport outcomes V-T. -/
theorem test_records_transport :
    packed frameT4 = some 0x181234abcdc0a80002c0a800010640f4080066778899aabb0011223344559415#288 ∧
    packed frameT5 = some 0xc0a80002c0a800010640f4080066778899aabb00112233445594b5#288 ∧
    packed frameT6 = some 0xc0a80002c0a80001114054080066778899aabb00112233445544c5#288 ∧
    packed frameT7 = some 0x123400080004000035c0a80002c0a80001114054080066778899aabb0011223344554425#288 ∧
    packed frameT9 = some 0xc0a80002c0a80001014054080066778899aabb0011223344554555#288 ∧
    packed frameT11 = some 0xc0a80002c0a80001ff4064080066778899aabb0011223344554d55#288 := by decide +kernel

/-! ## WellFormed: each check refuses an ill-formed operation -/

theorem test_illFormed_ipBadVer : Instr.wellFormed (.ipBadVer 0x45#8) = false := by decide
theorem test_illFormed_ipBadIhl_version : Instr.wellFormed (.ipBadIhl 0x64#8) = false := by decide
theorem test_illFormed_ipBadIhl_ihl : Instr.wellFormed (.ipBadIhl 0x45#8) = false := by decide
theorem test_illFormed_ipTrunc_version : Instr.wellFormed (.ipTrunc 0x65#8) = false := by decide
theorem test_illFormed_ipTrunc_ihl : Instr.wellFormed (.ipTrunc 0x44#8) = false := by decide
theorem test_illFormed_ipHdr_version : Instr.wellFormed (.ipHdr 0x55#8 34#7) = false := by decide
theorem test_illFormed_ipHdr_ihl : Instr.wellFormed (.ipHdr 0x44#8 30#7) = false := by decide
theorem test_illFormed_ipHdr_off : Instr.wellFormed (.ipHdr 0x46#8 34#7) = false := by decide
theorem test_illFormed_tcpHdr_aligned : Instr.wellFormed (.tcpHdr 36#7) = false := by decide
theorem test_illFormed_tcpHdr_low : Instr.wellFormed (.tcpHdr 30#7) = false := by decide
theorem test_illFormed_udpHdr_high : Instr.wellFormed (.udpHdr 78#7) = false := by decide
theorem test_guard_refuses :
    Instr.guard ⟨14#16, 0#16, 0#8, 0#7⟩ .ethShort = false ∧ Instr.guard ⟨13#16, 0#16, 0#8, 0#7⟩ .ethHdr = false ∧
    Instr.guard ⟨14#16, 0x0800#16, 0#8, 0#7⟩ .ethNotIp = false ∧
    Instr.guard ⟨15#16, 0x0800#16, 0#8, 0#7⟩ .ipEmpty = false ∧
    Instr.guard ⟨14#16, 0#16, 0#8, 0#7⟩ (.ipBadVer 0x60#8) = false ∧
    Instr.guard ⟨34#16, 0#16, 0#8, 0#7⟩ (.ipTrunc 0x45#8) = false ∧
    Instr.guard ⟨33#16, 0#16, 0#8, 0#7⟩ (.ipHdr 0x45#8 34#7) = false ∧
    Instr.guard ⟨54#16, 0#16, 6#8, 34#7⟩ .tcpTrunc = false ∧ Instr.guard ⟨53#16, 0#16, 6#8, 34#7⟩ (.tcpHdr 34#7) = false ∧
    Instr.guard ⟨42#16, 0#16, 17#8, 34#7⟩ .udpTrunc = false ∧
    Instr.guard ⟨41#16, 0#16, 17#8, 34#7⟩ (.udpHdr 34#7) = false ∧
    Instr.guard ⟨34#16, 0#16, 6#8, 34#7⟩ .l4Unsup = false := by decide

/-! ## Decoding: words written out from the dispatch map of 30_encoding.md R39 to R41 -/

/-- `in_valid = 1` (R34, R45). -/
theorem test_decode_decode : decode (.transaction (0b1#1 = 1#1)) = .ok .decode := by decide
/-- `LEN = 0b0000000000001101` (R39). -/
theorem test_decode_ethShort : decode (.layer2 0b0000000000001101#16) = .ok .ethShort := by decide
/-- `LEN = 0b0000000000001110` (R39). -/
theorem test_decode_ethHdr : decode (.layer2 0b0000000000001110#16) = .ok .ethHdr := by decide
/-- EtherType 0x0806, one field of bits `0000100000000110` (R39). -/
theorem test_decode_ethNotIp : decode (.ethType 0b0000100000000110#16 42#16) = .ok .ethNotIp := by decide
/-- EtherType 0x0800 with `LEN = 14` (R40). -/
theorem test_decode_ipEmpty : decode (.ethType 0b0000100000000000#16 14#16) = .ok .ipEmpty := by decide
/-- Version 6, IHL 0 (R40). -/
theorem test_decode_ipBadVer : decode (.ipv4 (0b0110#4 ++ 0b0000#4) 15#16) = .ok (.ipBadVer 0x60#8) := by decide
/-- Version 4, IHL 4 (R40). -/
theorem test_decode_ipBadIhl : decode (.ipv4 (0b0100#4 ++ 0b0100#4) 15#16) = .ok (.ipBadIhl 0x44#8) := by decide
/-- Version 4, IHL 5, one byte short (R40, R57). -/
theorem test_decode_ipTrunc : decode (.ipv4 (0b0100#4 ++ 0b0101#4) 33#16) = .ok (.ipTrunc 0x45#8) := by decide
/-- Version 4, IHL 8, whole header (R40, R59: `off = 46`). -/
theorem test_decode_ipHdr : decode (.ipv4 (0b0100#4 ++ 0b1000#4) 46#16) = .ok (.ipHdr 0x48#8 46#7) := by decide
/-- Protocol 6 at `off + 19` (R41). -/
theorem test_decode_tcpTrunc : decode (.proto 0b00000110#8 34#7 53#16) = .ok .tcpTrunc := by decide
/-- Protocol 6 at `off + 20` (R41). -/
theorem test_decode_tcpHdr : decode (.proto 0b00000110#8 34#7 54#16) = .ok (.tcpHdr 34#7) := by decide
/-- Protocol 17 at `off + 7` (R41). -/
theorem test_decode_udpTrunc : decode (.proto 0b00010001#8 74#7 81#16) = .ok .udpTrunc := by decide
/-- Protocol 17 at `off + 8` (R41). -/
theorem test_decode_udpHdr : decode (.proto 0b00010001#8 74#7 82#16) = .ok (.udpHdr 74#7) := by decide
/-- Protocol 255 with no byte after the IPv4 header (R41). -/
theorem test_decode_l4Unsup : decode (.proto 0b11111111#8 38#7 38#16) = .ok .l4Unsup := by decide
/-- What no frame presents is rejected by name (R39 to R41, R59). -/
theorem test_decode_rejects :
    decode (.transaction false) = .error .noTransaction ∧ decode (.ethType 0x0800#16 15#16) = .error .layer3 ∧
    decode (.ethType 0x0806#16 13#16) = .error .impossible ∧ decode (.ipv4 0x45#8 14#16) = .error .impossible ∧
    decode (.proto 6#8 36#7 94#16) = .error .impossible ∧ decode (.proto 1#8 34#7 33#16) = .error .impossible := by
  decide

/-! ## The bits of the table's rows -/

theorem test_tableWord :
    decodeTableWord 8 1 = some .decode ∧ decodeTableWord 16 0x0800 = some .ipEmpty ∧
    decodeTableWord 8 6 = some .tcpTrunc ∧ decodeTableWord 8 17 = some .udpTrunc ∧
    decodeTableWord 0 0 = some .ethShort := by decide
theorem test_fetchWord_decode :
    (nextOf (step (State.reset.withFetchWord 8 1))).map (·.point) = some .layer2 := by decide +kernel
theorem test_fetchWord_ipEmpty :
    (nextOf (step (State.reset.withFetchWord 16 0x0800))).map (·.res.l3Status) = some .truncEmpty := by decide +kernel
theorem test_fetchWord_tcp :
    (nextOf (step (State.reset.withFetchWord 8 6))).map (·.res.l4Status) = some .tcpTrunc := by decide +kernel
theorem test_fetchWord_udp :
    (nextOf (step (State.reset.withFetchWord 8 17))).map (·.res.l4Status) = some .udpTrunc := by decide +kernel

/-! ## One step of each operation -/

/-- R45, R5, R28: the snapshot is `d[P-1]` and the record starts at 0. -/
theorem test_step_decode :
    (nextOf (step (cyc [none, some frameS6] PortIn.idle))).map (fun s => (s.txn, s.res, s.point)) =
      some (frameS6, Record.zero, .layer2) := by decide +kernel
/-- R86: with no stage the snapshot is the port. -/
theorem test_step_decode_combinational :
    (nextOf (step (cyc [] (present frameS7b)))).map (·.txn) = some frameS7b := by decide +kernel
/-- R49, V-S1b. -/
theorem test_step_ethShort :
    (nextOf (step (at_ .layer2 frameS1b Record.zero))).map (fun s => (s.outValid, s.outRes)) =
      some (true, 0x80#288) := by decide +kernel
/-- R50, its example. -/
theorem test_step_ethHdr :
    (nextOf (step (at_ .layer2 frameI1 Record.zero))).map (fun s => (s.res.ethDst, s.res.ethSrc, s.res.ethType)) =
      some (0x001122334455#48, 0x66778899aabb#48, 0x0800#16) := by decide +kernel
/-- R51, its example (ARP): not an error, the type kept. -/
theorem test_step_ethNotIp :
    (nextOf (step (at_ .afterEth frameS2 (ethRecord frameS2)))).map
      (fun s => (s.res.l3Status, s.res.errClass, s.res.ethType)) = some (.notIpv4, .none, 0x0806#16) := by decide +kernel
/-- R54, its example. -/
theorem test_step_ipEmpty :
    (nextOf (step (at_ .afterEth frameI1 (ethRecord frameI1)))).map (fun s => (s.res.l3Status, s.res.errClass)) =
      some (.truncEmpty, .tooShort) := by decide +kernel
/-- R55, V-I3: the version is tested before the length, and the IHL is not reported. -/
theorem test_step_ipBadVer :
    (nextOf (step (at_ .afterEth frameI3 (ethRecord frameI3)))).map
      (fun s => (s.res.l3Status, s.res.errClass, s.res.ipVersion, s.res.ipIhl)) =
      some (.badVersion, .unsupported, 6#4, 0#4) := by decide +kernel
/-- R56, V-I7.4. -/
theorem test_step_ipBadIhl :
    (nextOf (step (at_ .afterEth frameI7 (ethRecord frameI7)))).map
      (fun s => (s.res.l3Status, s.res.errClass, s.res.ipVersion, s.res.ipIhl, s.res.l4Offset)) =
      some (.badIhl, .malformed, 4#4, 4#4, 0#7) := by decide +kernel
/-- R57, V-I11: one byte short of IHL 15. -/
theorem test_step_ipTrunc :
    (nextOf (step (at_ .afterEth frameI11 (ethRecord frameI11)))).map
      (fun s => (s.res.l3Status, s.res.errClass, s.res.ipIhl, s.res.ipTtl)) =
      some (.truncHdr, .tooShort, 15#4, 0#8) := by decide +kernel
/-- R58, V-S7b: IHL 8 puts the transport header at 46. -/
theorem test_step_ipHdr :
    (nextOf (step (at_ .afterEth frameS7b (ethRecord frameS7b)))).map
      (fun s => (s.res.ipTtl, s.res.ipProto, s.res.ipSrc, s.res.ipDst, s.res.l4Offset, s.point)) =
      some (64#8, 17#8, 0xc0a80001#32, 0xc0a80002#32, 46#7, .layer4) := by decide +kernel
/-- R64, V-S4: the port bytes are in the frame and are not decoded. -/
theorem test_step_tcpTrunc :
    (nextOf (step (at_ .layer4 frameS4 (ipRecord frameS4)))).map
      (fun s => (s.res.l4Status, s.res.errClass, s.res.l4Sport)) = some (.tcpTrunc, .tooShort, 0#16) := by decide +kernel
/-- R65, V-T4: ports from bytes 74 to 77, flags from byte 87. -/
theorem test_step_tcpHdr :
    (nextOf (step (at_ .layer4 frameT4 (ipRecord frameT4)))).map
      (fun s => (s.res.l4Status, s.res.l4Sport, s.res.l4Dport, s.res.tcpFlags, s.res.errClass)) =
      some (.tcp, 0xabcd#16, 0x1234#16, 0x18#8, .none) := by decide +kernel
/-- R66, its example (V-T6). -/
theorem test_step_udpTrunc :
    (nextOf (step (at_ .layer4 frameT6 (ipRecord frameT6)))).map
      (fun s => (s.res.l4Status, s.res.errClass, s.res.l4Offset, s.res.udpLen)) =
      some (.udpTrunc, .tooShort, 34#7, 0#16) := by decide +kernel
/-- R67, V-T7. -/
theorem test_step_udpHdr :
    (nextOf (step (at_ .layer4 frameT7 (ipRecord frameT7)))).map
      (fun s => (s.res.l4Status, s.res.l4Sport, s.res.l4Dport, s.res.udpLen, s.res.udpCsum)) =
      some (.udp, 53#16, 1024#16, 8#16, 0x1234#16) := by decide +kernel
/-- R68, V-T11: protocol 255. -/
theorem test_step_l4Unsup :
    (nextOf (step (at_ .layer4 frameT11 (ipRecord frameT11)))).map
      (fun s => (s.res.l4Status, s.res.errClass, s.res.ipProto)) = some (.unsupProto, .unsupported, 255#8) := by
  decide +kernel

/-! ## The clock edge and the cycle (95_test_vectors.md, programs P2 and P3) -/

/-- P3, the end of cycle 2: A goes to `S[1]`, B enters `S[0]`. -/
theorem test_edge_shifts :
    (cyc [some frameS6, none] (present frameS7b)).clockEdge.stages = [⟨true, frameS7b, true⟩, ⟨true, frameS6, true⟩] := by
  decide +kernel
/-- P3, the end of cycle 3: a reset clears every valid bit, and the frame it meets is not accepted. -/
theorem test_edge_reset :
    (cyc [some frameS7b, some frameS6] ⟨.high, .high, frameT4⟩).clockEdge.stages.map (·.v) = [false, false] := by
  decide +kernel
/-- P2, cycle 2: a result presented in a reset cycle stands. -/
theorem test_presenting_in_reset : (cyc [some frameI3] ⟨.high, .high, frameT9⟩).presenting = true := by decide +kernel
/-- P1, cycle 0, from power-up with a valid bit set: the cycle observes nothing, and after it a reset has been seen. -/
theorem test_powerUp_presentation_unobserved :
    (nextOf (step (spurious frameS6 ⟨.high, .low, frameS6⟩))).map (fun s => (s.outValid, s.observed, s.clockEdge.resetSeen)) =
      some (true, [], true) := by decide +kernel
/-- P4, cycle 0: with no stage, `rst` masks `out_valid`. -/
theorem test_presenting_combinational_reset : (cyc [] ⟨.high, .high, frameS5⟩).presenting = false := by decide +kernel
/-- R97: an unknown level is refused. -/
theorem test_unknown_refused : nextOf (step (cyc [] ⟨.unknown, .low, frameS5⟩)) = none := by decide +kernel

/-! ## The frame notation of 30_encoding.md R44, against the bytes of 95_test_vectors.md -/

theorem test_text_S6 :
    (FrameText.bytes ⟨[.eth {}, .ipv4 {}, .tcp { sport := 12345, dport := 80, flags := 2 }], none⟩).map transactionOf =
      some frameS6 := by decide +kernel
theorem test_text_T5 :
    (FrameText.bytes ⟨[.eth {}, .ipv4 { ihl := 15, opts := some (List.replicate 40 0x44#8) },
      .tcp { sport := 0xabcd, dport := 0x1234, flags := 0x18 }], some 93⟩).map transactionOf = some frameT5 := by
  decide +kernel
theorem test_text_I7 :
    (FrameText.bytes ⟨[.eth {}, .ipv4 { ihl := 4 }, .tcp { sport := 1, dport := 2 }], none⟩).map transactionOf =
      some frameI7 := by decide +kernel
theorem test_text_I14 :
    (FrameText.bytes ⟨[.eth {}, .ipv4 {
        ttl := 0, src := 0xffffffff, dst := 0, tos := 0xff, tlen := some 1
        id := 0xffff, frag := 0xffff, csum := 0xbeef }, .udp { sport := 0, dport := 0, len := some 0 }], none⟩).map
      transactionOf = some frameI14 := by decide +kernel

/-! ## Witnesses: for each statement with hypotheses, values that meet them all, at the boundaries of their ranges -/

/-- A state at a point of the decode of the transaction at the output of one stage. -/
def under (p : Point) (t : Transaction) (r : Record) : State :=
  { cyc [some t] PortIn.idle with point := p, txn := t, res := r }

/-- One frame for each row of the outcome table (60_exceptions.md R73). -/
def outcomeFrames : List Transaction :=
  [frameS1b, frameS2, frameI1, frameI3, frameI6, frameI11, frameS4, frameS6, frameT6, frameT7, frameT9]

/-- The state and operation of a step at each point, the boundary lengths among them. -/
theorem witness_StepRunsDecodedOperation :
    (cyc [some frameS6] PortIn.idle).port.known = true ∧
    fetch (cyc [some frameS6] PortIn.idle) = .selector (.transaction true) ∧
    Sys2Proof.decode (.transaction true) = .ok .decode ∧
    (under .afterEth frameT9 (ethRecord frameT9)).port.known = true ∧
    fetch (under .afterEth frameT9 (ethRecord frameT9)) = .selector (.ipv4 0x45#8 34#16) ∧
    Sys2Proof.decode (.ipv4 0x45#8 34#16) = .ok (.ipHdr 0x45#8 34#7) := by decide +kernel

/-- Each point is met; after `ETH_HDR`, at 14 bytes the type is fetched and at 15 bytes IPv4 byte 0. -/
theorem witness_FetchReadsLayerSelector :
    (under .start frameI1 Record.zero).point = .start ∧ (under .layer2 frameI1 Record.zero).point = .layer2 ∧
    (under .afterEth frameI1 (ethRecord frameI1)).point = .afterEth ∧
    fetch (under .afterEth frameI1 (ethRecord frameI1)) = .selector (.ethType 0x0800#16 14#16) ∧
    fetch (under .afterEth frameI6 (ethRecord frameI6)) = .selector (.ipv4 0x40#8 15#16) ∧
    fetch (under .afterEth frameS2 (ethRecord frameS2)) = .selector (.ethType 0x0806#16 42#16) ∧
    (under .layer4 frameT9 (ipRecord frameT9)).point = .layer4 ∧ (under .edge frameI1 Record.zero).point = .edge := by
  decide +kernel

theorem witness_StepWithoutOperation :
    State.reset.port.known = true ∧ State.reset.point = .start ∧ State.reset.decoding = false ∧
    (spurious frameS6 PortIn.idle).presenting = true ∧ (spurious frameS6 PortIn.idle).decoding = false ∧
    (cyc [] (present frameS6)).port.known = true ∧ (cyc [none, some frameS6] PortIn.idle).decoding = true ∧
    (under .edge frameS6 Record.zero).port.known = true ∧ (under .edge frameS6 Record.zero).point = .edge := by
  decide +kernel

theorem witness_UnknownControlInputIsRefused :
    (cyc [] ⟨.unknown, .high, frameS6⟩).port.rst = .unknown ∧ (cyc [] ⟨.low, .unknown, frameS6⟩).port.inValid = .unknown ∧
    (nextOf (step (cyc [] (present frameS6)))).isSome = true := by decide +kernel

theorem witness_PlacedTableWordRuns :
    decodeTableWord 8 1 = some .decode ∧ decodeTableWord 16 0x0800 = some .ipEmpty ∧
    decodeTableWord 8 17 = some .udpTrunc := by decide +kernel

/-- An operation that goes on, and one that ends a decode, each with a next state. -/
theorem witness_OperationsLeavePipelineAlone :
    Instr.terminal .ethHdr = false ∧
    (nextOf (exec .ethHdr (under .layer2 frameI1 Record.zero))).isSome = true ∧
    Instr.terminal (.tcpHdr 34#7) = true ∧
    (nextOf (exec (.tcpHdr 34#7) (under .layer4 frameS6 (ipRecord frameS6)))).isSome = true := by decide +kernel

/-- The operands and lengths at the ends of their ranges. -/
theorem witness_DecodeOfEncodeIsIdentity :
    Instr.wellFormed (.ipBadIhl 0x44#8) = true ∧ Instr.guard ⟨15#16, 0#16, 0#8, 0#7⟩ (.ipBadIhl 0x44#8) = true ∧
    Instr.wellFormed (.ipTrunc 0x4f#8) = true ∧ Instr.guard ⟨73#16, 0#16, 0#8, 0#7⟩ (.ipTrunc 0x4f#8) = true ∧
    Instr.wellFormed (.ipHdr 0x45#8 34#7) = true ∧ Instr.guard ⟨34#16, 0#16, 0#8, 0#7⟩ (.ipHdr 0x45#8 34#7) = true ∧
    Instr.wellFormed (.tcpHdr 74#7) = true ∧ Instr.guard ⟨94#16, 0#16, 6#8, 74#7⟩ (.tcpHdr 74#7) = true ∧
    Instr.wellFormed (.udpHdr 34#7) = true ∧ Instr.guard ⟨42#16, 0#16, 17#8, 34#7⟩ (.udpHdr 34#7) = true ∧
    Instr.wellFormed .l4Unsup = true ∧ Instr.guard ⟨34#16, 0#16, 255#8, 34#7⟩ .l4Unsup = true := by decide

theorem witness_SelectorIsEncodingOfItsOperation :
    Sys2Proof.decode (.layer2 0#16) = .ok .ethShort ∧ Sys2Proof.decode (.ipv4 0x4f#8 65535#16) = .ok (.ipHdr 0x4f#8 74#7) ∧
    Sys2Proof.decode (.proto 0#8 34#7 34#16) = .ok .l4Unsup := by decide

/-- Frames of 0 and of 13 bytes. -/
theorem witness_EthShortResult : (txn 0 []).len.toNat < 14 ∧ frameS1b.len.toNat = 13 := by decide +kernel

/-- The shortest frame with an Ethernet header. -/
theorem witness_EthHdrResult : (under .layer2 frameI1 Record.zero).txn.len.toNat = 14 := by decide +kernel

/-- The shortest frame with an IPv4 header. -/
theorem witness_IpHdrResult : (under .afterEth frameT9 (ethRecord frameT9)).txn.len.toNat = 34 := by decide +kernel

/-- The lowest and the highest offset, each with the shortest frame that holds the header. -/
theorem witness_TcpHdrResult :
    isTransportOffset 34#7 = true ∧ (under .layer4 frameS6 (ipRecord frameS6)).txn.len.toNat = (34#7 : Offset).toNat + 20 ∧
    isTransportOffset 74#7 = true ∧
    (under .layer4 frameT4 (ipRecord frameT4)).txn.len.toNat = (74#7 : Offset).toNat + 20 := by decide +kernel

/-- The lowest and the highest offset, each with the shortest frame that holds the header. -/
theorem witness_UdpHdrResult :
    isTransportOffset 34#7 = true ∧ (under .layer4 frameT7 (ipRecord frameT7)).txn.len.toNat = (34#7 : Offset).toNat + 8 ∧
    isTransportOffset 74#7 = true ∧
    (under .layer4 frameS3 (ipRecord frameS3)).txn.len.toNat = (74#7 : Offset).toNat + 8 := by decide +kernel

/-- Reads that end with the window, reads that end with the frame, reads that end one byte past the window in a frame of 95
bytes, and reads that end one byte past the frame. -/
theorem witness_MemReadIsBoundsChecked :
    (93 + 1 ≤ frameT4.len.toNat ∧ 93 + 1 ≤ 94 ∧ 92 + 2 ≤ frameT4.len.toNat ∧ 90 + 4 ≤ frameT4.len.toNat ∧
      88 + 6 ≤ frameT4.len.toNat) ∧
    (13 + 1 ≤ frameI1.len.toNat ∧ 12 + 2 ≤ frameI1.len.toNat ∧ 10 + 4 ≤ frameI1.len.toNat ∧ 8 + 6 ≤ frameI1.len.toNat) ∧
    (94 + 1 ≤ 95 ∧ (txn 95 []).len.toNat = 95 ∧ 94 < 94 + 1 ∧ 94 < 93 + 2 ∧ 94 < 91 + 4 ∧ 94 < 89 + 6) ∧
    (frameI1.len.toNat < 14 + 1 ∧ frameI1.len.toNat < 13 + 2 ∧ frameI1.len.toNat < 11 + 4 ∧
      frameI1.len.toNat < 9 + 6) := by decide +kernel

theorem witness_TransportOffsetIsExact : 5 ≤ (5#4 : BitVec 4).toNat ∧ 5 ≤ (15#4 : BitVec 4).toNat := by decide

/-- The longest path: 11 reads, the last of which ends at byte 88. -/
theorem witness_PathReads :
    ((decodePath frameT4).flatMap instrReads).length = 11 ∧ (87, 1) ∈ (decodePath frameT4).flatMap instrReads ∧
    ((decodePath frameT7).flatMap instrReads).length = 12 := by decide +kernel

/-- `TCP_HDR` on a frame with the sequence number changed. -/
theorem witness_OperationDependsOnItsReadsOnly :
    Instr.tcpHdr 34#7 ≠ .decode ∧
    (∀ rd ∈ instrReads (.tcpHdr 34#7), ∀ k : Nat, rd.1 ≤ k → k < rd.1 + rd.2 →
      (under .layer4 frameS6 (ipRecord frameS6)).txn.byte k =
        Transaction.byte ⟨54#16, frameS6.hdr ||| (0xff#752 <<< 304)⟩ k) ∧
    frameS6.hdr ≠ frameS6.hdr ||| (0xff#752 <<< 304) := by
  have h : ∀ rd ∈ instrReads (.tcpHdr 34#7), ∀ k : Nat, k < rd.1 + rd.2 → rd.1 ≤ k →
      (under .layer4 frameS6 (ipRecord frameS6)).txn.byte k =
        Transaction.byte ⟨54#16, frameS6.hdr ||| (0xff#752 <<< 304)⟩ k := by decide +kernel
  exact ⟨by decide, fun rd hrd k h1 h2 => h rd hrd k h2 h1, by decide +kernel⟩

/-- Two frames of 13 bytes that differ in the lane of byte 13. -/
theorem witness_BytesPastLenAreDontCare :
    frameS1b.len = (⟨13#16, frameS1b.hdr ||| (0xff#752 <<< 104)⟩ : Transaction).len ∧
    (∀ i : Nat, i < min frameS1b.len.toNat 94 →
      frameS1b.byte i = Transaction.byte ⟨13#16, frameS1b.hdr ||| (0xff#752 <<< 104)⟩ i) ∧
    frameS1b.hdr ≠ frameS1b.hdr ||| (0xff#752 <<< 104) := by decide +kernel

/-- A TCP frame with its type of service and sequence number changed, and a UDP frame with a payload byte at `off + 13`. -/
def changedS6 : Transaction := ⟨54#16, frameS6.hdr ^^^ (0xff#752 <<< 120) ^^^ (0xffffffff#752 <<< 304)⟩
def longUdp : Transaction := ⟨48#16, frameT7.hdr⟩
def changedUdp : Transaction := ⟨48#16, frameT7.hdr ^^^ (0xff#752 <<< 376)⟩

/-- What `UnreadHeaderBytesNeverMatter` asks of two frames of one length with an IPv4 header of IHL 5. -/
theorem witness_UnreadHeaderBytesNeverMatter :
    (frameS6.len = changedS6.len ∧ frameS6.hdr ≠ changedS6.hdr ∧ frameS6.byte 15 ≠ changedS6.byte 15 ∧
      frameS6.byte 38 ≠ changedS6.byte 38 ∧ frameS6.byte 23 = 6#8 ∧ 34 + 20 ≤ frameS6.len.toNat ∧
      (transportOffset (ipIhl (frameS6.byte 14))).toNat = 34 ∧ IpPresent frameS6) ∧
    (longUdp.len = changedUdp.len ∧ longUdp.byte 47 ≠ changedUdp.byte 47 ∧ longUdp.byte 23 = 17#8 ∧
      34 + 8 ≤ longUdp.len.toNat ∧ (transportOffset (ipIhl (longUdp.byte 14))).toNat = 34 ∧ IpPresent longUdp) ∧
    (∀ i : Nat, i ≤ 14 → frameS6.byte i = changedS6.byte i ∧ longUdp.byte i = changedUdp.byte i) ∧
    (∀ i : Nat, i = 22 ∨ i = 23 ∨ (26 ≤ i ∧ i ≤ 33) →
      frameS6.byte i = changedS6.byte i ∧ longUdp.byte i = changedUdp.byte i) ∧
    (∀ k : Nat, k ≤ 3 ∨ k = 13 → frameS6.byte (34 + k) = changedS6.byte (34 + k)) ∧
    (∀ k : Nat, k ≤ 7 → longUdp.byte (34 + k) = changedUdp.byte (34 + k)) := by
  have h1 : ∀ i : Nat, i < 15 → frameS6.byte i = changedS6.byte i ∧ longUdp.byte i = changedUdp.byte i := by decide +kernel
  have h2 : ∀ i : Nat, i < 34 → (i = 22 ∨ i = 23 ∨ (26 ≤ i ∧ i ≤ 33)) →
      frameS6.byte i = changedS6.byte i ∧ longUdp.byte i = changedUdp.byte i := by decide +kernel
  have h3 : ∀ k : Nat, k < 14 → (k ≤ 3 ∨ k = 13) → frameS6.byte (34 + k) = changedS6.byte (34 + k) := by decide +kernel
  have h4 : ∀ k : Nat, k < 8 → longUdp.byte (34 + k) = changedUdp.byte (34 + k) := by decide +kernel
  refine ⟨?_, ?_, fun i hi => h1 i (by omega), fun i hi => h2 i (by omega) hi, fun k hk => h3 k (by omega) hk,
    fun k hk => h4 k (by omega)⟩
  · unfold IpPresent
    decide +kernel
  · unfold IpPresent
    decide +kernel

/-- With a stage and without one, and for each kind of outcome. -/
theorem witness_StepsOfACycleComputeDecode :
    (∀ t ∈ outcomeFrames,
      (cyc [some t] PortIn.idle).point = .start ∧ (cyc [some t] PortIn.idle).port.known = true ∧
        (cyc [some t] PortIn.idle).decoding = true ∧
        decodeFrame (cyc [some t] PortIn.idle).operands = .ok (decodeMux t)) ∧
    (cyc [] (present frameS6)).point = .start ∧ (cyc [] (present frameS6)).port.known = true ∧
    (cyc [] (present frameS6)).decoding = true ∧
    decodeFrame (cyc [] (present frameS6)).operands = .ok (decodeMux frameS6) ∧
    (decodePath (cyc [] (present frameS6)).operands)[3]? = some (.tcpHdr 34#7) := by decide +kernel

/-- Every row of the outcome table is met, and so is each premise on the statuses; for `MultiByteFieldsAreBigEndian` and
`StatusCodesSayTheirOutcomes` too. -/
theorem witness_RecordHoldsExactlyTheDecodedLayers :
    (∀ t ∈ outcomeFrames, decodeFrame t = .ok (decodeMux t)) ∧
    outcomeFrames.map (fun t => (decodeMux t).codes) =
      [(0, 0, 0, 1), (1, 1, 0, 0), (1, 6, 0, 1), (1, 3, 0, 2), (1, 4, 0, 3), (1, 5, 0, 1), (1, 2, 3, 1), (1, 2, 1, 0),
        (1, 2, 4, 1), (1, 2, 2, 0), (1, 2, 5, 2)] := by decide +kernel

theorem witness_OutcomeTableHolds :
    (∀ t ∈ outcomeFrames, decodeFrame t = .ok (decodeMux t)) ∧
    outcomeFrames.map (fun t => (decodePath t).getLast?) =
      [some .ethShort, some .ethNotIp, some .ipEmpty, some (.ipBadVer 0x65#8), some (.ipBadIhl 0x40#8),
        some (.ipTrunc 0x4f#8), some .tcpTrunc, some (.tcpHdr 34#7), some .udpTrunc, some (.udpHdr 34#7),
        some .l4Unsup] := by decide +kernel

/-- The shallowest and the deepest pipeline of D12, and a power-up state with a valid bit set. -/
theorem witness_InvariantHoldsAtReset :
    (0 : Nat) ≤ 3 ∧ (State.resetAt 3).stages.length = 3 ∧ (spurious frameS6 PortIn.idle).PowerUp := by
  refine ⟨by decide, by decide, by decide, rfl, ?_, rfl, rfl⟩
  intro st h
  rw [List.mem_singleton.1 h]

/-- The invariant at the start of a cycle, at each point of a decode, and at the edge, with known inputs and a next state:
for `StepKeepsInvariant` and for `StepNeverStopsInInvariant`. -/
theorem witness_StepKeepsInvariant :
    (under .start frameS6 Record.zero).Inv ∧ (under .layer2 frameS6 Record.zero).Inv ∧
    (under .afterEth frameI1 (ethRecord frameI1)).Inv ∧ (under .layer4 frameT9 (ipRecord frameT9)).Inv ∧
    State.Inv { under .edge frameS6 Record.zero with outValid := true, outRes := (decodeMux frameS6).pack } ∧
    (nextOf (step (under .start frameS6 Record.zero))).isSome = true ∧
    (nextOf (step (under .layer2 frameS6 Record.zero))).isSome = true ∧
    (nextOf (step (under .afterEth frameI1 (ethRecord frameI1)))).isSome = true ∧
    (nextOf (step (under .layer4 frameT9 (ipRecord frameT9)))).isSome = true ∧
    (under .edge frameS6 Record.zero).port.known = true := by
  have obs : ∀ (p : Point) (t : Transaction) (r : Record),
      (under p t r).ObservationSound ∧ (under p t r).ResetSound := by
    intro p t r
    refine ⟨⟨fun _ h => (nomatch h), List.Pairwise.nil, fun _ h => (nomatch h)⟩, ?_, fun _ => rfl⟩
    intro _ st h _
    rw [List.mem_singleton.1 h]
  have len : ∀ (p : Point) (t : Transaction) (r : Record), (under p t r).stages.length ≤ Config.maxPipeDepth := by
    intro p t r
    show 1 ≤ 3
    omega
  have present : IpPresent frameT9 := by
    unfold IpPresent
    decide +kernel
  have decoded : decodeFrame frameS6 = .ok (decodeMux frameS6) := by decide +kernel
  refine ⟨⟨len _ _ _, trivial, obs _ _ _⟩, ⟨len _ _ _, ⟨rfl, rfl, rfl⟩, obs _ _ _⟩,
    ⟨len _ _ _, ⟨rfl, rfl, ?_, rfl⟩, obs _ _ _⟩, ⟨len _ _ _, ⟨rfl, rfl, present, rfl⟩, obs _ _ _⟩,
    ⟨len .edge frameS6 Record.zero, ⟨rfl, fun _ => ⟨_, decoded, rfl⟩⟩, obs .edge frameS6 Record.zero⟩, ?_⟩
  all_goals decide +kernel

/-- A cycle that presents, a cycle that does not, and a reset cycle. -/
theorem witness_RunOfStepsIsOneCycle :
    (under .start frameS6 Record.zero).point = .start ∧ (under .start frameS6 Record.zero).port.known = true ∧
    State.reset.point = .start ∧ State.reset.port.known = true ∧
    (cyc [] ⟨.high, .high, frameS6⟩).point = .start ∧ (cyc [] ⟨.high, .high, frameS6⟩).port.known = true := by
  decide +kernel

/-- With no stage, accepting and in reset; with stages, the last valid, valid from power-up, and not valid. -/
theorem witness_CycleOutputs :
    (cyc [] (present frameS6)).stages = [] ∧ (cyc [] ⟨.high, .high, frameS6⟩).stages = [] ∧
    (cyc [] (present frameS6)).point = .start ∧ (cyc [] ⟨.high, .high, frameS6⟩).port.known = true ∧
    (cyc [none, some frameS6] PortIn.idle).stages.getLast? = some ⟨true, frameS6, true⟩ ∧
    (cyc [some frameS6, none] ⟨.high, .low, frameS6⟩).stages.getLast?.map (·.v) = some false ∧
    (cyc [some frameS6, none] ⟨.high, .low, frameS6⟩).port.known = true ∧
    (spurious frameS6 PortIn.idle).stages.getLast? = some ⟨true, frameS6, false⟩ ∧
    (spurious frameS6 PortIn.idle).port.known = true := by decide +kernel

theorem witness_ClockEdgeShiftsStages :
    (cyc [none, some frameS6, none] (present frameS7b)).port.rst = .low ∧
    (cyc [none, some frameS6, none] (present frameS7b)).clockEdge.stages[0]? = some ⟨true, frameS7b, true⟩ ∧
    1 + 1 < (cyc [none, some frameS6, none] (present frameS7b)).stages.length := by decide +kernel

/-- Accepted, met by a reset, and not presented. -/
theorem witness_AcceptedExactlyWhenValidAndNotReset :
    (cyc [none] (present frameS6)).port.known = true ∧
    (cyc [none] (present frameS6)).clockEdge.stages[0]? = some ⟨true, frameS6, true⟩ ∧
    (cyc [none] ⟨.high, .high, frameS6⟩).port.known = true ∧
    (cyc [none] ⟨.high, .high, frameS6⟩).clockEdge.stages[0]?.map (·.v) = some false ∧
    (cyc [none] PortIn.idle).port.known = true ∧
    (cyc [none] PortIn.idle).clockEdge.stages[0]?.map (·.v) = some false := by decide +kernel

theorem witness_ResetCycleEmptiesPipeline :
    (cyc [some frameS6, some frameS7b] ⟨.high, .high, frameT4⟩).point = .start ∧
    (cyc [some frameS6, some frameS7b] ⟨.high, .high, frameT4⟩).port.known = true ∧
    (cyc [some frameS6, some frameS7b] ⟨.high, .high, frameT4⟩).port.rst = .high ∧
    (cyc [some frameS6, some frameS7b] ⟨.high, .high, frameT4⟩).clockEdge.stages ≠ [] ∧
    (cyc [some frameS6, some frameS7b] ⟨.high, .high, frameT4⟩).clockEdge.port.known = true := by decide +kernel

/-- A power-up state that presents, with and without the first reset. -/
theorem witness_NothingIsObservedBeforeTheFirstReset :
    ∀ port ∈ [PortIn.idle, ⟨.high, .low, frameS6⟩],
      (spurious frameS6 port).point = .start ∧ (spurious frameS6 port).port.known = true ∧
        (spurious frameS6 port).stages ≠ [] ∧ (spurious frameS6 port).resetSeen = false := by decide +kernel

/-- At depth 0, and at depth 2 with a reset in the cycle that presents. -/
theorem witness_LatencyIsPipeDepth :
    ((cyc [] (present frameS6)).point = .start ∧ (cyc [] (present frameS6)).stages.length = 0 ∧
      (cyc [] (present frameS6)).port.inValid = .high ∧ (cyc [] (present frameS6)).port.rst = .low) ∧
    (let s := { cyc [none, none] (present frameS6) with pending := [PortIn.idle, ⟨.high, .low, frameS6⟩] }
     s.point = .start ∧ s.stages.length = 2 ∧ s.port.inValid = .high ∧ s.port.rst = .low ∧ s.observing = true ∧
      (∀ q ∈ s.pending.take 2, q.known = true) ∧ (∀ q ∈ s.pending.take (2 - 1), q.rst = .low)) := by decide +kernel

theorem witness_ResetDiscardsInFlight :
    let s := { cyc [none, some frameS7b] (present frameS6) with pending := [⟨.high, .high, frameS6⟩, PortIn.idle] }
    s.point = .start ∧ s.stages.length = 2 ∧ s.port.known = true ∧ (∀ q ∈ s.pending.take 2, q.known = true) ∧
      (∃ q ∈ s.pending.take (2 - 1), q.rst = .high) := by decide +kernel

/-- At depths 0 and 2, with an idle cycle between two frames. -/
theorem witness_StreamDecodesInOrder :
    ∀ stages ∈ [([] : List (Option Transaction)), [none, none]],
      let s := { cyc stages (present frameS6) with pending := [PortIn.idle, present frameS7b] }
      s.point = .start ∧ s.stages.length = stages.length ∧ (∀ st ∈ s.stages, st.v = false) ∧ s.observing = true ∧
        (∀ q ∈ s.port :: s.pending, q.known = true ∧ q.rst = .low) := by decide +kernel

/-- Two depths, and other transactions in flight. -/
theorem witness_RecordIndependentOfHistory :
    (cyc [some frameI3, some frameS6] (present frameS4)).operands = (cyc [] (present frameS6)).operands ∧
    (cyc [some frameI3, some frameS6] (present frameS4)).point = .start ∧ (cyc [] (present frameS6)).point = .start ∧
    (cyc [some frameI3, some frameS6] (present frameS4)).port.known = true ∧
    (cyc [] (present frameS6)).port.known = true ∧
    (cyc [some frameI3, some frameS6] (present frameS4)).decoding = true ∧
    (cyc [] (present frameS6)).decoding = true := by decide +kernel

theorem witness_EndedRunPresentsNothing :
    (cyc [none, none] ⟨.high, .low, frameS6⟩).point = .start ∧
    (cyc [none, none] ⟨.high, .low, frameS6⟩).port.known = true ∧
    (cyc [none, none] ⟨.high, .low, frameS6⟩).runEnded = true := by decide +kernel

/-- The longest frame that can be presented, with a byte at each end of the window, and one byte more. -/
theorem witness_FrameIsDrivenInItsLanes :
    (List.replicate 65535 0x5a#8).length ≤ 65535 ∧ (List.replicate 65535 0x5a#8)[0]? = some 0x5a#8 ∧
    (List.replicate 65535 0x5a#8)[93]? = some 0x5a#8 ∧ 65535 < (List.replicate 65536 0x5a#8).length := by
  refine ⟨?_, ?_, ?_, ?_⟩
  · rw [List.length_replicate]
  · rw [List.getElem?_replicate]; rfl
  · rw [List.getElem?_replicate]; rfl
  · rw [List.length_replicate]; omega

/-- IHL 5, and IHL 15 with options. -/
theorem witness_TcpFrameDecodesToItsFields :
    ∀ h ∈ [({} : Ipv4Layer), { ihl := 15#4, proto := some 6#8, opts := some (List.replicate 40 0x44#8) }],
      (EthLayer.type {}) = 0x0800#16 ∧ h.ver = 4#4 ∧ 5 ≤ h.ihl.toNat ∧ (h.proto = none ∨ h.proto = some 6#8) ∧
      (layersBytes [.eth {}, .ipv4 h, .tcp { sport := 1, dport := 2 }, .bytes [0xee#8]]).isSome = true ∧
      ((layersBytes [.eth {}, .ipv4 h, .tcp { sport := 1, dport := 2 }, .bytes [0xee#8]]).getD []).length ≤ 65535 := by
  decide +kernel

/-- IHL 5, and IHL 15 with options. -/
theorem witness_UdpFrameDecodesToItsFields :
    ∀ h ∈ [({} : Ipv4Layer), { ihl := 15#4, proto := some 17#8, opts := some (List.replicate 40 0x44#8) }],
      (EthLayer.type {}) = 0x0800#16 ∧ h.ver = 4#4 ∧ 5 ≤ h.ihl.toNat ∧ (h.proto = none ∨ h.proto = some 17#8) ∧
      (layersBytes [.eth {}, .ipv4 h, .udp { sport := 1, dport := 2 }, .bytes []]).isSome = true ∧
      ((layersBytes [.eth {}, .ipv4 h, .udp { sport := 1, dport := 2 }, .bytes []]).getD []).length ≤ 65535 := by
  decide +kernel

end Sys2Proof.Tests
end

/-! SUPPORT. The eleven outcomes of `DECODE` (60_exceptions.md R73), each with the conditions under which R45 reaches it and the
whole record it leaves; and the statements that are read off this table. -/

namespace Sys2Proof.Machine

/-- IPv4 byte 0 is read, and its version is decoded (42_ipv4.md R55, R60): from here on a layer 3 outcome holds the IHL. -/
def Version4 (t : Transaction) : Prop :=
  15 ≤ t.len.toNat ∧ bytes2 t 12 = etherTypeIpv4 ∧ ipVersion (t.byte 14) = versionIpv4

/-- `IP_HDR` runs on a legal IHL whose header the frame holds (42_ipv4.md R58, R60). -/
theorem ipPresent_iff {t : Transaction} :
    IpPresent t ↔ Version4 t ∧ 5 ≤ (ipIhl (t.byte 14)).toNat ∧
      14 + 4 * (ipIhl (t.byte 14)).toNat ≤ t.len.toNat := by
  rw [IpPresent, transportOffset_toNat, Version4]
  constructor
  · rintro ⟨htype, hver, hihl, hoff⟩
    have hihl : 5 ≤ (ipIhl (t.byte 14)).toNat := hihl
    exact ⟨⟨by omega, htype, hver⟩, hihl, hoff⟩
  · rintro ⟨⟨-, htype, hver⟩, hihl, hoff⟩
    exact ⟨htype, hver, hihl, hoff⟩

/-- Among the codes of `l3_status` only that of `PRESENT` is 2 (10_state.md R7). -/
theorem l3_code_eq_two {l3 : L3Status} : l3.code = 2#3 ↔ l3 = .present := by
  cases l3 <;> decide

/-- What R45 makes of a frame: one constructor per row of the outcome table (60_exceptions.md R73), with the tests that lead to
it and the record, built on that of the last header that was extracted. -/
inductive DecodeOutcome (t : Transaction) : Record → Prop where
  | ethShort (hlen : t.len.toNat < 14) : DecodeOutcome t { Record.zero with errClass := .tooShort }
  | ethNotIp (hlen : 14 ≤ t.len.toNat) (htype : bytes2 t 12 ≠ etherTypeIpv4) :
      DecodeOutcome t { ethRecord t with l3Status := .notIpv4 }
  | ipEmpty (hlen : t.len.toNat = 14) (htype : bytes2 t 12 = etherTypeIpv4) :
      DecodeOutcome t { ethRecord t with l3Status := .truncEmpty, errClass := .tooShort }
  | ipBadVer (hlen : 15 ≤ t.len.toNat) (htype : bytes2 t 12 = etherTypeIpv4)
      (hver : ipVersion (t.byte 14) ≠ versionIpv4) :
      DecodeOutcome t { ethRecord t with
        ipVersion := ipVersion (t.byte 14), l3Status := .badVersion, errClass := .unsupported }
  | ipBadIhl (hv4 : Version4 t) (hihl : (ipIhl (t.byte 14)).toNat < 5) :
      DecodeOutcome t { ethRecord t with
        ipVersion := ipVersion (t.byte 14), ipIhl := ipIhl (t.byte 14), l3Status := .badIhl, errClass := .malformed }
  | ipTrunc (hv4 : Version4 t) (hihl : 5 ≤ (ipIhl (t.byte 14)).toNat)
      (hoff : t.len.toNat < 14 + 4 * (ipIhl (t.byte 14)).toNat) :
      DecodeOutcome t { ethRecord t with
        ipVersion := ipVersion (t.byte 14), ipIhl := ipIhl (t.byte 14), l3Status := .truncHdr, errClass := .tooShort }
  | tcpTrunc (hip : IpPresent t) (hproto : t.byte 23 = protoTcp)
      (hoff : t.len.toNat < 14 + 4 * (ipIhl (t.byte 14)).toNat + 20) :
      DecodeOutcome t { ipRecord t with l4Status := .tcpTrunc, errClass := .tooShort }
  | tcpHdr (hip : IpPresent t) (hproto : t.byte 23 = protoTcp)
      (hoff : 14 + 4 * (ipIhl (t.byte 14)).toNat + 20 ≤ t.len.toNat) :
      DecodeOutcome t { ipRecord t with
        l4Status := .tcp
        l4Sport := bytes2 t (transportOffset (ipIhl (t.byte 14))).toNat
        l4Dport := bytes2 t ((transportOffset (ipIhl (t.byte 14))).toNat + 2)
        tcpFlags := t.byte ((transportOffset (ipIhl (t.byte 14))).toNat + 13) }
  | udpTrunc (hip : IpPresent t) (hproto : t.byte 23 = protoUdp)
      (hoff : t.len.toNat < 14 + 4 * (ipIhl (t.byte 14)).toNat + 8) :
      DecodeOutcome t { ipRecord t with l4Status := .udpTrunc, errClass := .tooShort }
  | udpHdr (hip : IpPresent t) (hproto : t.byte 23 = protoUdp)
      (hoff : 14 + 4 * (ipIhl (t.byte 14)).toNat + 8 ≤ t.len.toNat) :
      DecodeOutcome t { ipRecord t with
        l4Status := .udp
        l4Sport := bytes2 t (transportOffset (ipIhl (t.byte 14))).toNat
        l4Dport := bytes2 t ((transportOffset (ipIhl (t.byte 14))).toNat + 2)
        udpLen := bytes2 t ((transportOffset (ipIhl (t.byte 14))).toNat + 4)
        udpCsum := bytes2 t ((transportOffset (ipIhl (t.byte 14))).toNat + 6) }
  | l4Unsup (hip : IpPresent t) (htcp : t.byte 23 ≠ protoTcp) (hudp : t.byte 23 ≠ protoUdp) :
      DecodeOutcome t { ipRecord t with l4Status := .unsupProto, errClass := .unsupported }

/-- A sequence of reads that answers goes on from the value of its first read. -/
theorem answer_after_read {α β : Type} {t : Transaction} {a n : Nat} {v : α} {f : α → Except Fault β} {b : β}
    (h : guardRead t a n v >>= f = .ok b) : f v = .ok b := by
  obtain ⟨w, hread, hrest⟩ := bind_eq_ok.1 h
  obtain ⟨-, -, rfl⟩ := guardRead_eq_ok.1 hread
  exact hrest

/-- Layer 4 ends in one of the five transport outcomes (43_transport.md R63 to R68). -/
theorem outcome_of_decodeTransport {t : Transaction} {r : Record} (hip : IpPresent t)
    (h : decodeTransport t (transportOffset (ipIhl (t.byte 14))) (ipRecord t) = .ok r) : DecodeOutcome t r := by
  unfold decodeTransport at h
  split at h
  · next hproto =>
    split at h
    · next hoff =>
      cases h
      exact .tcpTrunc hip hproto (transportOffset_toNat _ ▸ hoff)
    · next hoff =>
      iterate 3 replace h := answer_after_read h
      cases h
      exact .tcpHdr hip hproto (transportOffset_toNat _ ▸ Nat.le_of_not_lt hoff)
  · next htcp =>
    split at h
    · next hproto =>
      split at h
      · next hoff =>
        cases h
        exact .udpTrunc hip hproto (transportOffset_toNat _ ▸ hoff)
      · next hoff =>
        iterate 4 replace h := answer_after_read h
        cases h
        exact .udpHdr hip hproto (transportOffset_toNat _ ▸ Nat.le_of_not_lt hoff)
    · next hudp =>
      cases h
      exact .l4Unsup hip htcp hudp

/-- Layer 3 ends in one of its own four outcomes or in a transport outcome (42_ipv4.md R54 to R60). -/
theorem outcome_of_decodeNetwork {t : Transaction} {r : Record} (hlen : 14 ≤ t.len.toNat)
    (htype : bytes2 t 12 = etherTypeIpv4) (h : decodeNetwork t (ethRecord t) = .ok r) : DecodeOutcome t r := by
  unfold decodeNetwork at h
  split at h
  · next hempty =>
    cases h
    exact .ipEmpty (Nat.le_antisymm (Nat.le_of_lt_succ hempty) hlen) htype
  · next hb0 =>
    have hlen : 15 ≤ t.len.toNat := Nat.le_of_not_lt hb0
    replace h := answer_after_read h
    split at h
    · next hver =>
      cases h
      exact .ipBadVer hlen htype hver
    · next hver =>
      have hver := not_not.1 hver
      split at h
      · next hihl =>
        cases h
        exact .ipBadIhl ⟨hlen, htype, hver⟩ hihl
      · next hihl =>
        split at h
        · next hoff =>
          cases h
          exact .ipTrunc ⟨hlen, htype, hver⟩ (Nat.le_of_not_lt hihl) (transportOffset_toNat _ ▸ hoff)
        · next hoff =>
          iterate 4 replace h := answer_after_read h
          exact outcome_of_decodeTransport ⟨htype, hver, Nat.le_of_not_lt hihl, Nat.le_of_not_lt hoff⟩ h

/-- Every record of `DECODE` is one of the eleven outcomes (40_decode_top.md R45). -/
theorem outcome_of_decodeFrame {t : Transaction} {r : Record} (h : decodeFrame t = .ok r) : DecodeOutcome t r := by
  unfold decodeFrame at h
  split at h
  · next hlen =>
    cases h
    exact .ethShort hlen
  · next hlen =>
    iterate 3 replace h := answer_after_read h
    split at h
    · next htype =>
      cases h
      exact .ethNotIp (Nat.le_of_not_lt hlen) htype
    · next htype => exact outcome_of_decodeNetwork (Nat.le_of_not_lt hlen) (not_not.1 htype) h

namespace DecodeOutcome

variable {t : Transaction} {r : Record}

/-- A layer has a status exactly when the layer below it is present, and the three statuses fix the class (R46, R73). -/
theorem statuses_agree (h : DecodeOutcome t r) :
    (r.l2Status = .absent ↔ t.len.toNat < 14) ∧ (r.l3Status ≠ .none ↔ r.l2Status = .present) ∧
      (r.l4Status ≠ .none ↔ r.l3Status = .present) ∧
      r.errClass = errClassOf r.l2Status r.l3Status r.l4Status := by
  cases h
  case tcpTrunc hip _ _ | tcpHdr hip _ _ | udpTrunc hip _ _ | udpHdr hip _ _ | l4Unsup hip _ _ =>
    obtain ⟨⟨hlen, -⟩, -⟩ := ipPresent_iff.1 hip
    simp [Record.zero, ethRecord, ipRecord, errClassOf]
    omega
  case ipBadIhl hv4 _ | ipTrunc hv4 _ _ =>
    obtain ⟨hlen, -⟩ := hv4
    simp [Record.zero, ethRecord, errClassOf]
    omega
  all_goals
    simp [Record.zero, ethRecord, errClassOf]
    omega

/-- The Ethernet fields are the bytes of the header that was extracted, and 0 without one (R10). -/
theorem ethernet_fields (h : DecodeOutcome t r) :
    (r.l2Status = .present → r.ethDst = bytes6 t 0 ∧ r.ethSrc = bytes6 t 6 ∧ r.ethType = bytes2 t 12) ∧
      (r.l2Status = .absent → r.ethDst = 0#48 ∧ r.ethSrc = 0#48 ∧ r.ethType = 0#16) := by
  cases h <;> simp [Record.zero, ethRecord, ipRecord]

/-- The fields of the IPv4 header past byte 0 stand exactly when the header was extracted (R11, R12). -/
theorem ipv4_fields (h : DecodeOutcome t r) :
    (r.l3Status = .present →
      r.ipTtl = t.byte 22 ∧ r.ipProto = t.byte 23 ∧ r.ipSrc = bytes4 t 26 ∧ r.ipDst = bytes4 t 30 ∧
        IpPresent t ∧ r.ipIhl = ipIhl (t.byte 14) ∧ r.l4Offset = transportOffset (ipIhl (t.byte 14))) ∧
      (r.l3Status ≠ .present →
        r.ipTtl = 0#8 ∧ r.ipProto = 0#8 ∧ r.ipSrc = 0#32 ∧ r.ipDst = 0#32 ∧ r.l4Offset = 0#7) := by
  cases h <;> simp [Record.zero, ethRecord, ipRecord, *]

/-- The version stands once byte 0 is read, the IHL once the version is 4 (R11). -/
theorem ipv4_byte0_fields (h : DecodeOutcome t r) :
    (r.l3Status = .present ∨ r.l3Status = .badVersion ∨ r.l3Status = .badIhl ∨ r.l3Status = .truncHdr →
      r.ipVersion = ipVersion (t.byte 14)) ∧
    (r.l3Status = .none ∨ r.l3Status = .notIpv4 ∨ r.l3Status = .truncEmpty → r.ipVersion = 0#4) ∧
    (r.l3Status = .present ∨ r.l3Status = .badIhl ∨ r.l3Status = .truncHdr → r.ipIhl = ipIhl (t.byte 14)) ∧
    (r.l3Status = .none ∨ r.l3Status = .notIpv4 ∨ r.l3Status = .truncEmpty ∨ r.l3Status = .badVersion →
      r.ipIhl = 0#4) := by
  cases h <;> simp [Record.zero, ethRecord, ipRecord]

/-- The transport fields stand exactly for the transport header that was extracted (R13). -/
theorem transport_fields (h : DecodeOutcome t r) :
    (r.l4Status = .tcp ∨ r.l4Status = .udp →
      r.l4Sport = bytes2 t r.l4Offset.toNat ∧ r.l4Dport = bytes2 t (r.l4Offset.toNat + 2)) ∧
    (r.l4Status = .tcp → r.tcpFlags = t.byte (r.l4Offset.toNat + 13)) ∧
    (r.l4Status = .udp →
      r.udpLen = bytes2 t (r.l4Offset.toNat + 4) ∧ r.udpCsum = bytes2 t (r.l4Offset.toNat + 6)) ∧
    (r.l4Status ≠ .tcp → r.l4Status ≠ .udp → r.l4Sport = 0#16 ∧ r.l4Dport = 0#16) ∧
    (r.l4Status ≠ .tcp → r.tcpFlags = 0#8) ∧
    (r.l4Status ≠ .udp → r.udpLen = 0#16 ∧ r.udpCsum = 0#16) := by
  cases h <;> simp [Record.zero, ethRecord, ipRecord]

/-- Each value of `l2_status` and its condition (R6). -/
theorem l2_code_iff (h : DecodeOutcome t r) :
    (r.l2Status.code = 0#1 ↔ t.len.toNat < 14) ∧ (r.l2Status.code = 1#1 ↔ 14 ≤ t.len.toNat) := by
  obtain ⟨habsent, -⟩ := h.statuses_agree
  rw [← Nat.not_lt, ← habsent]
  cases r.l2Status <;> decide

/-- Each value of `l3_status` is given exactly under the tests that lead to it (R7). -/
theorem l3_code_iff (h : DecodeOutcome t r) :
    (r.l3Status.code = 0#3 ↔ t.len.toNat < 14) ∧
    (r.l3Status.code = 1#3 ↔ 14 ≤ t.len.toNat ∧ bytes2 t 12 ≠ etherTypeIpv4) ∧
    (r.l3Status.code = 2#3 ↔ Version4 t ∧ 5 ≤ (ipIhl (t.byte 14)).toNat ∧
      14 + 4 * (ipIhl (t.byte 14)).toNat ≤ t.len.toNat) ∧
    (r.l3Status.code = 3#3 ↔
      15 ≤ t.len.toNat ∧ bytes2 t 12 = etherTypeIpv4 ∧ ipVersion (t.byte 14) ≠ versionIpv4) ∧
    (r.l3Status.code = 4#3 ↔ Version4 t ∧ (ipIhl (t.byte 14)).toNat < 5) ∧
    (r.l3Status.code = 5#3 ↔ Version4 t ∧ 5 ≤ (ipIhl (t.byte 14)).toNat ∧
      t.len.toNat < 14 + 4 * (ipIhl (t.byte 14)).toNat) ∧
    (r.l3Status.code = 6#3 ↔ t.len.toNat = 14 ∧ bytes2 t 12 = etherTypeIpv4) ∧ r.l3Status.code ≠ 7#3 := by
  cases h
  case tcpTrunc hip _ _ | tcpHdr hip _ _ | udpTrunc hip _ _ | udpHdr hip _ _ | l4Unsup hip _ _ =>
    obtain ⟨⟨hlen, htype, hver⟩, hihl, hoff⟩ := ipPresent_iff.1 hip
    simp [ipRecord, L3Status.code, Version4, htype, hver]
    omega
  case ipBadIhl hv4 hihl | ipTrunc hv4 hihl _ =>
    obtain ⟨hlen, htype, hver⟩ := hv4
    simp [L3Status.code, Version4, htype, hver]
    omega
  case ethNotIp hlen htype =>
    simp [L3Status.code, Version4, htype]
    omega
  case ipEmpty hlen htype =>
    simp [L3Status.code, Version4, hlen, htype]
  case ethShort hlen | ipBadVer hlen _ _ =>
    simp [Record.zero, L3Status.code, Version4, *]
    omega

/-- Above a present layer 3, each value of `l4_status` is given exactly by the protocol and the room for its header (R8). -/
theorem l4_code_iff (h : DecodeOutcome t r) :
    (r.l4Status.code = 0#3 ↔ r.l3Status.code ≠ 2#3) ∧
    (r.l4Status.code = 1#3 ↔ r.l3Status.code = 2#3 ∧ t.byte 23 = protoTcp ∧
      14 + 4 * (ipIhl (t.byte 14)).toNat + 20 ≤ t.len.toNat) ∧
    (r.l4Status.code = 2#3 ↔ r.l3Status.code = 2#3 ∧ t.byte 23 = protoUdp ∧
      14 + 4 * (ipIhl (t.byte 14)).toNat + 8 ≤ t.len.toNat) ∧
    (r.l4Status.code = 3#3 ↔ r.l3Status.code = 2#3 ∧ t.byte 23 = protoTcp ∧
      t.len.toNat < 14 + 4 * (ipIhl (t.byte 14)).toNat + 20) ∧
    (r.l4Status.code = 4#3 ↔ r.l3Status.code = 2#3 ∧ t.byte 23 = protoUdp ∧
      t.len.toNat < 14 + 4 * (ipIhl (t.byte 14)).toNat + 8) ∧
    (r.l4Status.code = 5#3 ↔ r.l3Status.code = 2#3 ∧ t.byte 23 ≠ protoTcp ∧ t.byte 23 ≠ protoUdp) ∧
    r.l4Status.code ≠ 6#3 ∧ r.l4Status.code ≠ 7#3 := by
  cases h
  case tcpTrunc _ hproto hoff | tcpHdr _ hproto hoff | udpTrunc _ hproto hoff | udpHdr _ hproto hoff =>
    simp [ipRecord, ethRecord, Record.zero, L3Status.code, L4Status.code, protoTcp, protoUdp, hproto, hoff]
  case l4Unsup _ htcp hudp =>
    simp [ipRecord, ethRecord, Record.zero, L3Status.code, L4Status.code, htcp, hudp]
  all_goals simp [ethRecord, Record.zero, L3Status.code, L4Status.code]

end DecodeOutcome

/-- Settles O38: each group of fields is read off the table of outcomes. -/
theorem recordHoldsExactlyTheDecodedLayers : Obligations.RecordHoldsExactlyTheDecodedLayers := by
  intro t r hdec
  have h := outcome_of_decodeFrame hdec
  obtain ⟨habsent, hl3, hl4, hclass⟩ := h.statuses_agree
  obtain ⟨hethPresent, hethAbsent⟩ := h.ethernet_fields
  obtain ⟨hipPresent, hipAbsent⟩ := h.ipv4_fields
  obtain ⟨hver, hver0, hihl, hihl0⟩ := h.ipv4_byte0_fields
  refine ⟨habsent, hl3, hl4, hclass, hethPresent, hethAbsent, fun hpresent => ?_, hipAbsent, hver, hver0, hihl, hihl0,
    h.transport_fields⟩
  obtain ⟨httl, hproto, hsrc, hdst, ⟨-, -, hlegal, -⟩, hihl, hoff⟩ := hipPresent hpresent
  rw [hihl, hoff]
  exact ⟨httl, hproto, hsrc, hdst, transportOffset_toNat _, isTransportOffset_transportOffset hlegal⟩

/-- Settles O57: each status field's codes are read off the table of outcomes. -/
theorem statusCodesSayTheirOutcomes : Obligations.StatusCodesSayTheirOutcomes := by
  intro t r hdec
  have h := outcome_of_decodeFrame hdec
  obtain ⟨hl2absent, hl2present⟩ := h.l2_code_iff
  obtain ⟨hnone, hnotIpv4, hpresent, hbadVersion, hbadIhl, htruncHdr, htruncEmpty, hl3reserved⟩ := h.l3_code_iff
  obtain ⟨hl4none, htcp, hudp, htcpTrunc, hudpTrunc, hunsup, hl4reserved⟩ := h.l4_code_iff
  refine ⟨hl2absent, hl2present, hnone, hnotIpv4, hpresent, hbadVersion, hbadIhl, htruncHdr, htruncEmpty, hl3reserved,
    hl4none, htcp, hudp, htcpTrunc, hudpTrunc, hunsup, fun hcode => ?_, hl4reserved⟩
  obtain ⟨hl3, -⟩ := hunsup.1 hcode
  obtain ⟨-, hproto, -⟩ := h.ipv4_fields.1 (l3_code_eq_two.1 hl3)
  exact hproto

end Sys2Proof.Machine

/-! SUPPORT. Byte order (20_memory.md R20): the values of several bytes as concatenations and as weighted sums, and the
multi-byte fields of a record. -/

namespace Sys2Proof.Machine

/-- A concatenation as a number: its first part is the more significant. -/
theorem append_toNat {m n : Nat} (x : BitVec m) (y : BitVec n) : (x ++ y).toNat = x.toNat * 2 ^ n + y.toNat := by
  rw [BitVec.toNat_append, ← Nat.shiftLeft_add_eq_or_of_lt y.isLt, Nat.shiftLeft_eq]

/-- The two halves of a 4-byte value, flattened to its bytes. -/
theorem bytes4_eq_append (t : Transaction) (a : Nat) :
    bytes4 t a = t.byte a ++ t.byte (a + 1) ++ t.byte (a + 2) ++ t.byte (a + 3) :=
  BitVec.append_assoc' (x₁ := bytes2 t a) (x₂ := t.byte (a + 2)) (x₃ := t.byte (a + 3))

/-- The two parts of a 6-byte value, flattened to its bytes. -/
theorem bytes6_eq_append (t : Transaction) (a : Nat) :
    bytes6 t a =
      t.byte a ++ t.byte (a + 1) ++ t.byte (a + 2) ++ t.byte (a + 3) ++ t.byte (a + 4) ++ t.byte (a + 5) := by
  rw [← bytes4_eq_append]
  exact BitVec.append_assoc' (x₁ := bytes4 t a) (x₂ := t.byte (a + 4)) (x₃ := t.byte (a + 5))

theorem bytes2_toNat (t : Transaction) (a : Nat) :
    (bytes2 t a).toNat = (t.byte a).toNat * 2 ^ 8 + (t.byte (a + 1)).toNat :=
  append_toNat _ _

theorem bytes4_toNat (t : Transaction) (a : Nat) :
    (bytes4 t a).toNat = (t.byte a).toNat * 2 ^ 24 + (t.byte (a + 1)).toNat * 2 ^ 16 +
      (t.byte (a + 2)).toNat * 2 ^ 8 + (t.byte (a + 3)).toNat := by
  simp only [bytes4_eq_append, append_toNat]
  omega

theorem bytes6_toNat (t : Transaction) (a : Nat) :
    (bytes6 t a).toNat = (t.byte a).toNat * 2 ^ 40 + (t.byte (a + 1)).toNat * 2 ^ 32 +
      (t.byte (a + 2)).toNat * 2 ^ 24 + (t.byte (a + 3)).toNat * 2 ^ 16 +
      (t.byte (a + 4)).toNat * 2 ^ 8 + (t.byte (a + 5)).toNat := by
  simp only [bytes6_eq_append, append_toNat]
  omega

/-- Whatever a guarded read answers is the value of its bytes. -/
theorem answer_of_guardRead {α : Type} {t : Transaction} {a n : Nat} {v w : α} (h : guardRead t a n v = .ok w) :
    w = v := by
  obtain ⟨-, -, heq⟩ := guardRead_eq_ok.1 h
  exact heq.symm

/-- Settles O28: a read answers the value of its bytes, and the fields of a record are such values by the outcome table. -/
theorem multiByteFieldsAreBigEndian : Obligations.MultiByteFieldsAreBigEndian := by
  refine ⟨fun t a => ⟨bytes2_toNat t a, bytes4_toNat t a, bytes6_toNat t a, fun v hread => ?read2, fun v hread => ?read4,
    fun v hread => ?read6⟩, fun t r hdec => ?fields⟩
  case read2 => exact answer_of_guardRead hread
  case read4 => exact (answer_of_guardRead hread).trans (bytes4_eq_append t a)
  case read6 => exact (answer_of_guardRead hread).trans (bytes6_eq_append t a)
  case fields =>
    have h := outcome_of_decodeFrame hdec
    obtain ⟨hethernet, -⟩ := h.ethernet_fields
    obtain ⟨hipv4, -⟩ := h.ipv4_fields
    obtain ⟨hports, -, hudp, -⟩ := h.transport_fields
    refine ⟨fun hl2 => ?_, fun hl3 => ?_, hports, hudp⟩
    · obtain ⟨hdst, hsrc, htype⟩ := hethernet hl2
      exact ⟨hdst.trans (bytes6_eq_append t 0), hsrc.trans (bytes6_eq_append t 6), htype⟩
    · obtain ⟨-, -, hsrc, hdst, -⟩ := hipv4 hl3
      exact ⟨hsrc.trans (bytes4_eq_append t 26), hdst.trans (bytes4_eq_append t 30)⟩

end Sys2Proof.Machine

/-! SUPPORT. The dispatch map as a table: which selector selects which operation, one row each (30_encoding.md R39 to
R41). -/

namespace Sys2Proof

/-- A selector and the operation it selects: one constructor per row of the dispatch map, with the tests of its place in the
tree (30_encoding.md R39 to R41). -/
inductive Selects : Selector → Instr → Prop where
  | decode : Selects (.transaction true) .decode
  | ethShort {len : Len} (hlen : len.toNat < 14) : Selects (.layer2 len) .ethShort
  | ethHdr {len : Len} (hlen : 14 ≤ len.toNat) : Selects (.layer2 len) .ethHdr
  | ethNotIp {type : BitVec 16} {len : Len} (hlen : 14 ≤ len.toNat) (htype : type ≠ etherTypeIpv4) :
      Selects (.ethType type len) .ethNotIp
  | ipEmpty {len : Len} (hlen : len.toNat = 14) : Selects (.ethType etherTypeIpv4 len) .ipEmpty
  | ipBadVer {b0 : Byte} {len : Len} (hlen : 15 ≤ len.toNat) (hver : ipVersion b0 ≠ versionIpv4) :
      Selects (.ipv4 b0 len) (.ipBadVer b0)
  | ipBadIhl {b0 : Byte} {len : Len} (hlen : 15 ≤ len.toNat) (hver : ipVersion b0 = versionIpv4)
      (hihl : (ipIhl b0).toNat < 5) : Selects (.ipv4 b0 len) (.ipBadIhl b0)
  | ipTrunc {b0 : Byte} {len : Len} (hlen : 15 ≤ len.toNat) (hver : ipVersion b0 = versionIpv4)
      (hihl : 5 ≤ (ipIhl b0).toNat) (hoff : len.toNat < 14 + 4 * (ipIhl b0).toNat) :
      Selects (.ipv4 b0 len) (.ipTrunc b0)
  | ipHdr {b0 : Byte} {len : Len} (hver : ipVersion b0 = versionIpv4) (hihl : 5 ≤ (ipIhl b0).toNat)
      (hoff : 14 + 4 * (ipIhl b0).toNat ≤ len.toNat) :
      Selects (.ipv4 b0 len) (.ipHdr b0 (transportOffset (ipIhl b0)))
  | tcpTrunc {off : Offset} {len : Len} (hlegal : isTransportOffset off = true) (hoff : off.toNat ≤ len.toNat)
      (hroom : len.toNat < off.toNat + 20) : Selects (.proto protoTcp off len) .tcpTrunc
  | tcpHdr {off : Offset} {len : Len} (hlegal : isTransportOffset off = true)
      (hroom : off.toNat + 20 ≤ len.toNat) : Selects (.proto protoTcp off len) (.tcpHdr off)
  | udpTrunc {off : Offset} {len : Len} (hlegal : isTransportOffset off = true) (hoff : off.toNat ≤ len.toNat)
      (hroom : len.toNat < off.toNat + 8) : Selects (.proto protoUdp off len) .udpTrunc
  | udpHdr {off : Offset} {len : Len} (hlegal : isTransportOffset off = true)
      (hroom : off.toNat + 8 ≤ len.toNat) : Selects (.proto protoUdp off len) (.udpHdr off)
  | l4Unsup {proto : Byte} {off : Offset} {len : Len} (hlegal : isTransportOffset off = true)
      (hoff : off.toNat ≤ len.toNat) (htcp : proto ≠ protoTcp) (hudp : proto ≠ protoUdp) :
      Selects (.proto proto off len) .l4Unsup

/-- Layer 2 tests the length alone (R39). -/
theorem selects_of_decodeLayer2 {len : Len} {i : Instr} (h : decodeLayer2 len = .ok i) : Selects (.layer2 len) i := by
  unfold decodeLayer2 at h
  split at h
  · next hlen => cases h; exact .ethShort hlen
  · next hlen => cases h; exact .ethHdr (Nat.le_of_not_lt hlen)

/-- The EtherType selects in a frame that holds it, and 0x0800 only in one that ends there (R39, R40). -/
theorem selects_of_decodeEthType {type : BitVec 16} {len : Len} {i : Instr} (h : decodeEthType type len = .ok i) :
    Selects (.ethType type len) i := by
  unfold decodeEthType at h
  split at h
  · cases h
  · next hlen =>
    replace hlen := Nat.le_of_not_lt hlen
    split at h
    · next htype => cases h; exact .ethNotIp hlen htype
    · next htype =>
      cases not_not.1 htype
      split at h
      · next hempty => cases h; exact .ipEmpty (Nat.le_antisymm (Nat.le_of_lt_succ hempty) hlen)
      · cases h

/-- IPv4 byte 0 selects by version, then IHL, then length (R40, 42_ipv4.md R60). -/
theorem selects_of_decodeIpv4 {b0 : Byte} {len : Len} {i : Instr} (h : decodeIpv4 b0 len = .ok i) :
    Selects (.ipv4 b0 len) i := by
  unfold decodeIpv4 at h
  rw [transportOffset_toNat] at h
  split at h
  · cases h
  · next hlen =>
    replace hlen := Nat.le_of_not_lt hlen
    split at h
    · next hver => cases h; exact .ipBadVer hlen hver
    · next hver =>
      replace hver := not_not.1 hver
      split at h
      · next hihl => cases h; exact .ipBadIhl hlen hver hihl
      · next hihl =>
        replace hihl := Nat.le_of_not_lt hihl
        split at h
        · next hoff => cases h; exact .ipTrunc hlen hver hihl hoff
        · next hoff => cases h; exact .ipHdr hver hihl (Nat.le_of_not_lt hoff)

/-- At an offset that a frame reaches, the protocol and the room for its header decide (R41, 43_transport.md R63). -/
theorem decodeProto_of_reached {proto : Byte} {off : Offset} {len : Len} (hlegal : isTransportOffset off = true)
    (hoff : off.toNat ≤ len.toNat) :
    decodeProto proto off len =
      if proto = protoTcp then
        if len.toNat < off.toNat + tcpHeaderLen then .ok .tcpTrunc else .ok (.tcpHdr off)
      else if proto = protoUdp then
        if len.toNat < off.toNat + udpHeaderLen then .ok .udpTrunc else .ok (.udpHdr off)
      else .ok .l4Unsup :=
  if_neg (not_or.2 ⟨ne_false_of_eq_true hlegal, Nat.not_lt.2 hoff⟩)

/-- The protocol selects at one of the eleven offsets inside the frame (R41). -/
theorem selects_of_decodeProto {proto : Byte} {off : Offset} {len : Len} {i : Instr}
    (h : decodeProto proto off len = .ok i) : Selects (.proto proto off len) i := by
  unfold decodeProto at h
  split at h
  · cases h
  · next hreached =>
    obtain ⟨hlegal, hoff⟩ := not_or.1 hreached
    replace hlegal := Bool.eq_true_of_not_eq_false hlegal
    replace hoff := Nat.le_of_not_lt hoff
    split at h
    · next hproto =>
      subst hproto
      split at h
      · next hroom => cases h; exact .tcpTrunc hlegal hoff hroom
      · next hroom => cases h; exact .tcpHdr hlegal (Nat.le_of_not_lt hroom)
    · next htcp =>
      split at h
      · next hproto =>
        subst hproto
        split at h
        · next hroom => cases h; exact .udpTrunc hlegal hoff hroom
        · next hroom => cases h; exact .udpHdr hlegal (Nat.le_of_not_lt hroom)
      · next hudp => cases h; exact .l4Unsup hlegal hoff htcp hudp

/-- Whatever the decoder answers stands in the table (R39 to R41). -/
theorem selects_of_decode {x : Selector} {i : Instr} (h : decode x = .ok i) : Selects x i := by
  cases x with
  | transaction valid =>
    cases valid with
    | true => cases h; exact .decode
    | false => cases h
  | layer2 len => exact selects_of_decodeLayer2 h
  | ethType type len => exact selects_of_decodeEthType h
  | ipv4 b0 len => exact selects_of_decodeIpv4 h
  | proto proto off len => exact selects_of_decodeProto h

/-- The tests of a row lead the decoder to its operation (R39 to R41). -/
theorem decode_of_selects {x : Selector} {i : Instr} (h : Selects x i) : decode x = .ok i := by
  cases h with
  | decode => rfl
  | ethShort hlen => exact if_pos hlen
  | ethHdr hlen => exact if_neg (Nat.not_lt.2 hlen)
  | ethNotIp hlen htype => rw [decode, decodeEthType, if_neg (Nat.not_lt.2 hlen), if_pos htype]
  | ipEmpty hlen =>
    rw [decode, decodeEthType, if_neg (Nat.not_lt.2 hlen.ge), if_neg (not_not.2 rfl),
      if_pos (Nat.lt_succ_of_le hlen.le)]
  | ipBadVer hlen hver => rw [decode, decodeIpv4, if_neg (Nat.not_lt.2 hlen), if_pos hver]
  | ipBadIhl hlen hver hihl =>
    rw [decode, decodeIpv4, if_neg (Nat.not_lt.2 hlen), if_neg (not_not.2 hver), if_pos hihl]
  | ipTrunc hlen hver hihl hoff =>
    rw [decode, decodeIpv4, if_neg (Nat.not_lt.2 hlen), if_neg (not_not.2 hver),
      if_neg (Nat.not_lt.2 hihl), transportOffset_toNat, if_pos hoff]
  | @ipHdr b0 len hver hihl hoff =>
    have hlen : 15 ≤ len.toNat := by omega
    rw [decode, decodeIpv4, if_neg (Nat.not_lt.2 hlen), if_neg (not_not.2 hver),
      if_neg (Nat.not_lt.2 hihl), transportOffset_toNat, if_neg (Nat.not_lt.2 hoff)]
  | tcpTrunc hlegal hoff hroom =>
    rw [decode, decodeProto_of_reached hlegal hoff, if_pos rfl, if_pos hroom]
  | tcpHdr hlegal hroom =>
    rw [decode, decodeProto_of_reached hlegal (Nat.le_of_add_right_le hroom), if_pos rfl,
      if_neg (Nat.not_lt.2 hroom)]
  | udpTrunc hlegal hoff hroom =>
    rw [decode, decodeProto_of_reached hlegal hoff, if_neg (by decide), if_pos rfl, if_pos hroom]
  | udpHdr hlegal hroom =>
    rw [decode, decodeProto_of_reached hlegal (Nat.le_of_add_right_le hroom), if_neg (by decide),
      if_pos rfl, if_neg (Nat.not_lt.2 hroom)]
  | l4Unsup hlegal hoff htcp hudp =>
    rw [decode, decodeProto_of_reached hlegal hoff, if_neg htcp, if_neg hudp]

/-- The decoder answers exactly what the table says (R39 to R41). -/
theorem decode_eq_ok {x : Selector} {i : Instr} : decode x = .ok i ↔ Selects x i :=
  ⟨selects_of_decode, decode_of_selects⟩

end Sys2Proof

/-! SUPPORT. The Ethernet operations (41_ethernet.md R49 to R51): their next states, and what selects each. -/

namespace Sys2Proof.Machine

/-- `ETH_SHORT` ends the decode with one field written (R49). -/
theorem exec_ethShort (s : State) : exec .ethShort s = .next (s.deliver { s.res with errClass := .tooShort }) :=
  rfl

/-- `ETH_NOTIP` ends the decode with one field written (R51). -/
theorem exec_ethNotIp (s : State) : exec .ethNotIp s = .next (s.deliver { s.res with l3Status := .notIpv4 }) :=
  rfl

/-- With the whole header in the frame every read of `ETH_HDR` answers (R50). -/
theorem exec_ethHdr_of_len {s : State} (hlen : 14 ≤ s.txn.len.toNat) :
    exec .ethHdr s = .next { s with
      res := { s.res with
        l2Status := .present, ethDst := bytes6 s.txn 0, ethSrc := bytes6 s.txn 6, ethType := bytes2 s.txn 12 }
      point := .afterEth } := by
  have hdst : memRead6 s.txn 0 = .ok (bytes6 s.txn 0) := memRead6_ok (by omega) (by omega)
  have hsrc : memRead6 s.txn 6 = .ok (bytes6 s.txn 6) := memRead6_ok (by omega) (by omega)
  have htype : memRead2 s.txn 12 = .ok (bytes2 s.txn 12) := memRead2_ok hlen (by omega)
  rw [exec, execEthHdr, hdst, hsrc, htype]
  rfl

/-- `DECODE` of a frame without a whole Ethernet header reads none of its bytes (R49). -/
theorem decodeFrame_of_short {t : Transaction} (hlen : t.len.toNat < 14) :
    decodeFrame t = .ok { Record.zero with errClass := .tooShort } := by
  rw [decodeFrame, if_pos hlen]
  rfl

/-- Packing a record in which only the class is set leaves the two bits of the class (30_encoding.md R35). -/
theorem pack_zero_with_errClass (c : ErrClass) : Record.pack { Record.zero with errClass := c } = atBit 7 c.code := by
  simp [Record.pack, Record.zero, atBit, L2Status.code, L3Status.code, L4Status.code]

/-- Settles O14: the row of the dispatch map, the presentation, and the record at the first test of R45. -/
theorem ethShortResult : Obligations.EthShortResult := by
  refine ⟨fun x => decode_eq_ok.trans ⟨fun h => ?selected, ?selects⟩, exec_ethShort, fun _ => decodeFrame_of_short,
    (pack_zero_with_errClass .tooShort).trans (by simp [atBit, ErrClass.code])⟩
  case selected =>
    cases h with
    | ethShort hlen => exact ⟨_, rfl, hlen⟩
  case selects =>
    rintro ⟨len, rfl, hlen⟩
    exact .ethShort hlen

/-- Settles O15: the row of the dispatch map, and the three reads, which 14 bytes let answer. -/
theorem ethHdrResult : Obligations.EthHdrResult := by
  refine ⟨fun x => decode_eq_ok.trans ⟨fun h => ?selected, ?selects⟩, fun _ => exec_ethHdr_of_len⟩
  case selected =>
    cases h with
    | ethHdr hlen => exact ⟨_, rfl, hlen⟩
  case selects =>
    rintro ⟨len, rfl, hlen⟩
    exact .ethHdr hlen

/-- Settles O16: the row of the dispatch map, and the presentation. -/
theorem ethNotIpResult : Obligations.EthNotIpResult := by
  refine ⟨fun x => decode_eq_ok.trans ⟨fun h => ?selected, ?selects⟩, exec_ethNotIp⟩
  case selected =>
    cases h with
    | ethNotIp hlen htype => exact ⟨_, _, rfl, hlen, htype⟩
  case selects =>
    rintro ⟨type, len, rfl, hlen, htype⟩
    exact .ethNotIp hlen htype

end Sys2Proof.Machine

/-! SUPPORT. IPv4 byte 0 and the transport offset as numbers: the nibbles, the ranges of `b0` that R40 tests, and the
comparisons with `LEN` (30_encoding.md R37, R38; 42_ipv4.md R59). -/

namespace Sys2Proof

/-- The version nibble as a number (30_encoding.md R37). -/
theorem ipVersion_toNat (b0 : Byte) : (ipVersion b0).toNat = b0.toNat / 16 := by
  rw [ipVersion, BitVec.extractLsb'_toNat, Nat.shiftRight_eq_div_pow]
  omega

/-- The IHL nibble as a number (30_encoding.md R37). -/
theorem ipIhl_toNat (b0 : Byte) : (ipIhl b0).toNat = b0.toNat % 16 := by
  rw [ipIhl, BitVec.extractLsb'_toNat, Nat.shiftRight_zero]

theorem ipVersion_eq_versionIpv4_iff {b0 : Byte} : ipVersion b0 = versionIpv4 ↔ b0.toNat / 16 = 4 := by
  rw [← BitVec.toNat_inj, ipVersion_toNat]
  rfl

/-- The mask 0xF0 keeps the version nibble in its place and clears the IHL. -/
theorem and_highNibble (b0 : Byte) : b0 &&& 0xf0#8 = ipVersion b0 ++ 0#4 := by
  ext i hi
  rw [BitVec.getElem_and, BitVec.getElem_append, ipVersion]
  split
  · next hlow => interval_cases i <;> simp
  · next hhigh => interval_cases i <;> simp at hhigh ⊢

/-- The match 0x40 / 0xF0 of the table is the test of the version (30_encoding.md R40). -/
theorem and_highNibble_eq_iff {b0 : Byte} : b0 &&& 0xf0#8 = 0x40#8 ↔ ipVersion b0 = versionIpv4 := by
  rw [and_highNibble, ← BitVec.toNat_inj, ← BitVec.toNat_inj, Machine.append_toNat]
  simp only [BitVec.toNat_ofNat]
  omega

/-- Version 4 with an IHL below the least legal one is `b0` in 0x40 to 0x44 (30_encoding.md R40). -/
theorem version4_and_badIhl_iff {b0 : Byte} :
    ipVersion b0 = versionIpv4 ∧ (ipIhl b0).toNat < 5 ↔ 0x40 ≤ b0.toNat ∧ b0.toNat ≤ 0x44 := by
  rw [ipVersion_eq_versionIpv4_iff, ipIhl_toNat]
  omega

/-- Version 4 with a legal IHL is `b0` in 0x45 to 0x4F (30_encoding.md R40). -/
theorem version4_and_legalIhl_iff {b0 : Byte} :
    ipVersion b0 = versionIpv4 ∧ 5 ≤ (ipIhl b0).toNat ↔ 0x45 ≤ b0.toNat ∧ b0.toNat ≤ 0x4f := by
  rw [ipVersion_eq_versionIpv4_iff, ipIhl_toNat]
  omega

/-- The header length is four times the IHL (30_encoding.md R38). -/
theorem headerLength_toNat (ihl : BitVec 4) : (headerLength ihl).toNat = 4 * ihl.toNat := by
  rw [headerLength, Machine.append_toNat, BitVec.toNat_ofNat]
  omega

/-- Room of at most 20 bytes past a transport offset still fits in its 7 bits (42_ipv4.md R59). -/
theorem transportOffset_add_toNat {ihl : BitVec 4} {room : Offset} (h : room.toNat ≤ 20) :
    (transportOffset ihl + room).toNat = (transportOffset ihl).toNat + room.toNat := by
  have := transportOffset_toNat ihl
  rw [BitVec.toNat_add]
  omega

/-- Comparing `LEN` with a zero-extended 7-bit value compares the numbers (42_ipv4.md R59). -/
theorem lt_zeroExtend_iff {len : Len} {off : Offset} : len < off.setWidth 16 ↔ len.toNat < off.toNat := by
  rw [BitVec.lt_def, BitVec.toNat_setWidth_of_le (by decide)]

end Sys2Proof

/-! SUPPORT. The IPv4 operations (42_ipv4.md R54 to R58): their next states, what selects each, and the exactness of the
transport offset (R59). -/

namespace Sys2Proof.Machine

/-- `IP_EMPTY` ends the decode with two fields written (R54). -/
theorem exec_ipEmpty (s : State) :
    exec .ipEmpty s = .next (s.deliver { s.res with l3Status := .truncEmpty, errClass := .tooShort }) :=
  rfl

/-- `IP_BADVER(b0)` ends the decode; of `b0` only the version is written (R55). -/
theorem exec_ipBadVer (s : State) (b0 : Byte) :
    exec (.ipBadVer b0) s = .next (s.deliver { s.res with
      ipVersion := ipVersion b0, l3Status := .badVersion, errClass := .unsupported }) :=
  rfl

/-- `IP_BADIHL(b0)` ends the decode with both nibbles of `b0` written (R56). -/
theorem exec_ipBadIhl (s : State) (b0 : Byte) :
    exec (.ipBadIhl b0) s = .next (s.deliver { s.res with
      ipVersion := ipVersion b0, ipIhl := ipIhl b0, l3Status := .badIhl, errClass := .malformed }) :=
  rfl

/-- `IP_TRUNC(b0)` ends the decode with both nibbles of `b0` written (R57). -/
theorem exec_ipTrunc (s : State) (b0 : Byte) :
    exec (.ipTrunc b0) s = .next (s.deliver { s.res with
      ipVersion := ipVersion b0, ipIhl := ipIhl b0, l3Status := .truncHdr, errClass := .tooShort }) :=
  rfl

/-- With the 34 bytes up to the end of the fixed IPv4 header in the frame every read of `IP_HDR` answers (R58). -/
theorem exec_ipHdr_of_len {s : State} (b0 : Byte) (off : Offset) (hlen : 34 ≤ s.txn.len.toNat) :
    exec (.ipHdr b0 off) s = .next { s with
      res := { s.res with
        l3Status := .present, ipVersion := ipVersion b0, ipIhl := ipIhl b0, ipTtl := s.txn.byte 22,
        ipProto := s.txn.byte 23, ipSrc := bytes4 s.txn 26, ipDst := bytes4 s.txn 30, l4Offset := off }
      point := .layer4 } := by
  have httl : memRead1 s.txn 22 = .ok (s.txn.byte 22) := memRead1_ok (by omega) (by omega)
  have hproto : memRead1 s.txn 23 = .ok (s.txn.byte 23) := memRead1_ok (by omega) (by omega)
  have hsrc : memRead4 s.txn 26 = .ok (bytes4 s.txn 26) := memRead4_ok (by omega) (by omega)
  have hdst : memRead4 s.txn 30 = .ok (bytes4 s.txn 30) := memRead4_ok hlen (by omega)
  rw [exec, execIpHdr, httl, hproto, hsrc, hdst]
  rfl

/-- Settles O17: the row of the dispatch map, and the presentation. -/
theorem ipEmptyResult : Obligations.IpEmptyResult := by
  refine ⟨fun x => decode_eq_ok.trans ⟨fun h => ?selected, ?selects⟩, exec_ipEmpty⟩
  case selected =>
    cases h with
    | ipEmpty hlen => exact ⟨_, rfl, hlen⟩
  case selects =>
    rintro ⟨len, rfl, hlen⟩
    exact .ipEmpty hlen

/-- Settles O18: the row of the dispatch map, whose mask tests the version nibble, and the presentation. -/
theorem ipBadVerResult : Obligations.IpBadVerResult := by
  refine ⟨fun x b0 => decode_eq_ok.trans ⟨fun h => ?selected, ?selects⟩, exec_ipBadVer⟩
  case selected =>
    cases h with
    | ipBadVer hlen hver => exact ⟨_, rfl, hlen, mt and_highNibble_eq_iff.1 hver⟩
  case selects =>
    rintro ⟨len, rfl, hlen, hmask⟩
    exact .ipBadVer hlen (mt and_highNibble_eq_iff.2 hmask)

/-- Settles O19: the row of the dispatch map, whose tests of the nibbles are a range of `b0`, and the presentation. -/
theorem ipBadIhlResult : Obligations.IpBadIhlResult := by
  refine ⟨fun x b0 => decode_eq_ok.trans ⟨fun h => ?selected, ?selects⟩, exec_ipBadIhl⟩
  case selected =>
    cases h with
    | ipBadIhl hlen hver hihl => exact ⟨_, rfl, hlen, version4_and_badIhl_iff.1 ⟨hver, hihl⟩⟩
  case selects =>
    rintro ⟨len, rfl, hlen, hrange⟩
    obtain ⟨hver, hihl⟩ := version4_and_badIhl_iff.2 hrange
    exact .ipBadIhl hlen hver hihl

/-- Settles O20: the row of the dispatch map, with the range of `b0` and the length its IHL declares, and the presentation. -/
theorem ipTruncResult : Obligations.IpTruncResult := by
  refine ⟨fun x b0 => decode_eq_ok.trans ⟨fun h => ?selected, ?selects⟩, exec_ipTrunc⟩
  case selected =>
    cases h with
    | ipTrunc hlen hver hihl hoff =>
      obtain ⟨hlow, hhigh⟩ := version4_and_legalIhl_iff.1 ⟨hver, hihl⟩
      exact ⟨_, rfl, hlen, hlow, hhigh, ipIhl_toNat b0 ▸ hoff⟩
  case selects =>
    rintro ⟨len, rfl, hlen, hlow, hhigh, hoff⟩
    obtain ⟨hver, hihl⟩ := version4_and_legalIhl_iff.2 ⟨hlow, hhigh⟩
    exact .ipTrunc hlen hver hihl (by rwa [ipIhl_toNat])

/-- Settles O21: the row of the dispatch map, with the offset as the number its IHL gives, and the four reads, which 34 bytes
let answer. -/
theorem ipHdrResult : Obligations.IpHdrResult := by
  refine ⟨fun x b0 off => decode_eq_ok.trans ⟨fun h => ?selected, ?selects⟩, fun _ b0 off => exec_ipHdr_of_len b0 off⟩
  case selected =>
    cases h with
    | ipHdr hver hihl hoff =>
      obtain ⟨hlow, hhigh⟩ := version4_and_legalIhl_iff.1 ⟨hver, hihl⟩
      rw [← ipIhl_toNat, transportOffset_toNat]
      exact ⟨_, rfl, hlow, hhigh, rfl, hoff⟩
  case selects =>
    rintro ⟨len, rfl, hlow, hhigh, hoff, hlen⟩
    obtain ⟨hver, hihl⟩ := version4_and_legalIhl_iff.2 ⟨hlow, hhigh⟩
    rw [← ipIhl_toNat, ← transportOffset_toNat] at hoff
    obtain rfl := BitVec.eq_of_toNat_eq hoff
    exact .ipHdr hver hihl (transportOffset_toNat _ ▸ hlen)

/-- The offset of a legal IHL is one of the eleven, as a list (42_ipv4.md R59). -/
theorem transportOffset_mem {ihl : BitVec 4} (h : 5 ≤ ihl.toNat) :
    (transportOffset ihl).toNat ∈ [34, 38, 42, 46, 50, 54, 58, 62, 66, 70, 74] := by
  have h := isTransportOffset_transportOffset h
  simp only [isTransportOffset, decide_eq_true_eq] at h
  simp only [List.mem_cons]
  omega

/-- Settles O29: the offset that `IP_HDR` is passed is that of its row, and each sum is exact in its width, so that a comparison
of bit vectors is one of numbers. -/
theorem transportOffsetIsExact : Obligations.TransportOffsetIsExact := by
  refine ⟨fun x b0 off hdec => ?own, fun ihl hihl => ?exact⟩
  case own =>
    cases selects_of_decode hdec with
    | ipHdr => rfl
  case exact =>
    have hmax := ihl.isLt
    have hlength := headerLength_toNat ihl
    have hoff := transportOffset_toNat ihl
    have hudp : (transportOffset ihl + 8#7).toNat = (transportOffset ihl).toNat + 8 :=
      transportOffset_add_toNat (by decide)
    have htcp : (transportOffset ihl + 20#7).toNat = (transportOffset ihl).toNat + 20 :=
      transportOffset_add_toNat (by decide)
    refine ⟨rfl, hlength, by omega, by omega, hoff, by omega, transportOffset_mem hihl, hudp, by omega, htcp, by omega,
      fun len => ⟨?_, ?_, ?_⟩⟩
    · rw [gt_iff_lt, lt_zeroExtend_iff, hoff]
    · rw [lt_zeroExtend_iff, htcp, hoff]
    · rw [lt_zeroExtend_iff, hudp, hoff]

end Sys2Proof.Machine

/-! SUPPORT. The transport operations (43_transport.md R64 to R68): their next states, and what selects each. -/

namespace Sys2Proof.Machine

/-- `TCP_TRUNC` ends the decode with two fields written (R64). -/
theorem exec_tcpTrunc (s : State) :
    exec .tcpTrunc s = .next (s.deliver { s.res with l4Status := .tcpTrunc, errClass := .tooShort }) :=
  rfl

/-- With byte `off + 13`, its last, in the frame and in the window every read of `TCP_HDR(off)` answers (R65). -/
theorem exec_tcpHdr_of_len {s : State} {off : Offset} (hlen : off.toNat + 14 ≤ s.txn.len.toNat)
    (hwindow : off.toNat + 14 ≤ 94) :
    exec (.tcpHdr off) s = .next (s.deliver { s.res with
      l4Status := .tcp, l4Sport := bytes2 s.txn off.toNat, l4Dport := bytes2 s.txn (off.toNat + 2),
      tcpFlags := s.txn.byte (off.toNat + 13) }) := by
  have hsport : memRead2 s.txn off.toNat = .ok (bytes2 s.txn off.toNat) := memRead2_ok (by omega) (by omega)
  have hdport : memRead2 s.txn (off.toNat + 2) = .ok (bytes2 s.txn (off.toNat + 2)) :=
    memRead2_ok (by omega) (by omega)
  have hflags : memRead1 s.txn (off.toNat + 13) = .ok (s.txn.byte (off.toNat + 13)) := memRead1_ok hlen hwindow
  rw [exec, execTcpHdr, hsport, hdport, hflags]
  rfl

/-- `UDP_TRUNC` ends the decode with two fields written (R66). -/
theorem exec_udpTrunc (s : State) :
    exec .udpTrunc s = .next (s.deliver { s.res with l4Status := .udpTrunc, errClass := .tooShort }) :=
  rfl

/-- With its eight bytes in the frame and in the window every read of `UDP_HDR(off)` answers (R67). -/
theorem exec_udpHdr_of_len {s : State} {off : Offset} (hlen : off.toNat + 8 ≤ s.txn.len.toNat)
    (hwindow : off.toNat + 8 ≤ 94) :
    exec (.udpHdr off) s = .next (s.deliver { s.res with
      l4Status := .udp, l4Sport := bytes2 s.txn off.toNat, l4Dport := bytes2 s.txn (off.toNat + 2),
      udpLen := bytes2 s.txn (off.toNat + 4), udpCsum := bytes2 s.txn (off.toNat + 6) }) := by
  have hsport : memRead2 s.txn off.toNat = .ok (bytes2 s.txn off.toNat) := memRead2_ok (by omega) (by omega)
  have hdport : memRead2 s.txn (off.toNat + 2) = .ok (bytes2 s.txn (off.toNat + 2)) :=
    memRead2_ok (by omega) (by omega)
  have hlength : memRead2 s.txn (off.toNat + 4) = .ok (bytes2 s.txn (off.toNat + 4)) :=
    memRead2_ok (by omega) (by omega)
  have hcsum : memRead2 s.txn (off.toNat + 6) = .ok (bytes2 s.txn (off.toNat + 6)) := memRead2_ok hlen hwindow
  rw [exec, execUdpHdr, hsport, hdport, hlength, hcsum]
  rfl

/-- `L4_UNSUP` ends the decode with two fields written (R68). -/
theorem exec_l4Unsup (s : State) :
    exec .l4Unsup s = .next (s.deliver { s.res with l4Status := .unsupProto, errClass := .unsupported }) :=
  rfl

/-- Settles O22: the row of the dispatch map, and the presentation. -/
theorem tcpTruncResult : Obligations.TcpTruncResult := by
  refine ⟨fun x => decode_eq_ok.trans ⟨fun h => ?selected, ?selects⟩, exec_tcpTrunc⟩
  case selected =>
    cases h with
    | tcpTrunc hlegal hoff hroom => exact ⟨_, _, rfl, hlegal, hoff, hroom⟩
  case selects =>
    rintro ⟨off, len, rfl, hlegal, hoff, hroom⟩
    exact .tcpTrunc hlegal hoff hroom

/-- Settles O23: the row of the dispatch map, and the three reads, which end before byte 94 at the highest offset too. -/
theorem tcpHdrResult : Obligations.TcpHdrResult := by
  refine ⟨fun x off => decode_eq_ok.trans ⟨fun h => ?selected, ?selects⟩, fun s off hlegal hroom => ?next⟩
  case selected =>
    cases h with
    | tcpHdr hlegal hroom => exact ⟨_, rfl, hlegal, hroom⟩
  case selects =>
    rintro ⟨len, rfl, hlegal, hroom⟩
    exact .tcpHdr hlegal hroom
  case next =>
    obtain ⟨-, hmax⟩ := isTransportOffset_bounds hlegal
    exact exec_tcpHdr_of_len (by omega) (by omega)

/-- Settles O24: the row of the dispatch map, and the presentation. -/
theorem udpTruncResult : Obligations.UdpTruncResult := by
  refine ⟨fun x => decode_eq_ok.trans ⟨fun h => ?selected, ?selects⟩, exec_udpTrunc⟩
  case selected =>
    cases h with
    | udpTrunc hlegal hoff hroom => exact ⟨_, _, rfl, hlegal, hoff, hroom⟩
  case selects =>
    rintro ⟨off, len, rfl, hlegal, hoff, hroom⟩
    exact .udpTrunc hlegal hoff hroom

/-- Settles O25: the row of the dispatch map, and the four reads, which end before byte 94 at the highest offset too. -/
theorem udpHdrResult : Obligations.UdpHdrResult := by
  refine ⟨fun x off => decode_eq_ok.trans ⟨fun h => ?selected, ?selects⟩, fun s off hlegal hroom => ?next⟩
  case selected =>
    cases h with
    | udpHdr hlegal hroom => exact ⟨_, rfl, hlegal, hroom⟩
  case selects =>
    rintro ⟨len, rfl, hlegal, hroom⟩
    exact .udpHdr hlegal hroom
  case next =>
    obtain ⟨-, hmax⟩ := isTransportOffset_bounds hlegal
    exact exec_udpHdr_of_len hroom (by omega)

/-- Settles O26: the row of the dispatch map, which tests no length past the offset, and the presentation. -/
theorem l4UnsupResult : Obligations.L4UnsupResult := by
  refine ⟨fun x => decode_eq_ok.trans ⟨fun h => ?selected, ?selects⟩, exec_l4Unsup⟩
  case selected =>
    cases h with
    | l4Unsup hlegal hoff htcp hudp => exact ⟨_, _, _, rfl, hlegal, hoff, htcp, hudp⟩
  case selects =>
    rintro ⟨proto, off, len, rfl, hlegal, hoff, htcp, hudp⟩
    exact .l4Unsup hlegal hoff htcp hudp

end Sys2Proof.Machine

/-! SUPPORT. The dispatch map as an encoding: the encoder against the table of the dispatch map (30_encoding.md R39 to R41). -/

namespace Sys2Proof

/-- In a context that meets its guard, a well-formed operation is encoded as a selector of its own row (R39 to R41). -/
theorem selects_encode {i : Instr} {c : Context} (hwf : i.wellFormed = true) (hguard : i.guard c = true) :
    Selects (encode c i) i := by
  cases i with
  | decode => exact .decode
  | ethShort => exact .ethShort (of_decide_eq_true hguard)
  | ethHdr => exact .ethHdr (of_decide_eq_true hguard)
  | ethNotIp =>
    obtain ⟨hlen, htype⟩ := of_decide_eq_true hguard
    exact .ethNotIp hlen htype
  | ipEmpty =>
    obtain ⟨hlow, hhigh⟩ := of_decide_eq_true hguard
    exact .ipEmpty (Nat.le_antisymm (Nat.le_of_lt_succ hhigh) hlow)
  | ipBadVer b0 => exact .ipBadVer (of_decide_eq_true hguard) (of_decide_eq_true hwf)
  | ipBadIhl b0 =>
    obtain ⟨hver, hihl⟩ := of_decide_eq_true hwf
    exact .ipBadIhl (of_decide_eq_true hguard) hver hihl
  | ipTrunc b0 =>
    obtain ⟨hver, hihl⟩ := of_decide_eq_true hwf
    obtain ⟨hlen, hoff⟩ := of_decide_eq_true hguard
    exact .ipTrunc hlen hver hihl (transportOffset_toNat _ ▸ hoff)
  | ipHdr b0 off =>
    obtain ⟨hver, hihl, rfl⟩ := of_decide_eq_true hwf
    exact .ipHdr hver hihl (transportOffset_toNat _ ▸ of_decide_eq_true hguard)
  | tcpTrunc =>
    obtain ⟨hlegal, hroom⟩ := Bool.and_eq_true_iff.1 hguard
    obtain ⟨hoff, hroom⟩ := of_decide_eq_true hroom
    exact .tcpTrunc hlegal hoff hroom
  | tcpHdr off => exact .tcpHdr hwf (of_decide_eq_true hguard)
  | udpTrunc =>
    obtain ⟨hlegal, hroom⟩ := Bool.and_eq_true_iff.1 hguard
    obtain ⟨hoff, hroom⟩ := of_decide_eq_true hroom
    exact .udpTrunc hlegal hoff hroom
  | udpHdr off => exact .udpHdr hwf (of_decide_eq_true hguard)
  | l4Unsup =>
    obtain ⟨hlegal, hproto⟩ := Bool.and_eq_true_iff.1 hguard
    obtain ⟨hoff, htcp, hudp⟩ := of_decide_eq_true hproto
    exact .l4Unsup hlegal hoff htcp hudp

/-- A selector's own fields as the context of its operation; the fields it does not have are 0. -/
def Selector.context : Selector → Context
  | .transaction _ => ⟨0#16, 0#16, 0#8, 0#7⟩
  | .layer2 len => ⟨len, 0#16, 0#8, 0#7⟩
  | .ethType type len => ⟨len, type, 0#8, 0#7⟩
  | .ipv4 _ len => ⟨len, 0#16, 0#8, 0#7⟩
  | .proto p off len => ⟨len, 0#16, p, off⟩

/-- Each row of the dispatch map is the encoding of its operation in the context of its own fields, which meets the guard. -/
theorem encode_of_selects {x : Selector} {i : Instr} (h : Selects x i) :
    i.guard x.context = true ∧ encode x.context i = x := by
  cases h with
  | decode => exact ⟨rfl, rfl⟩
  | ethShort hlen => exact ⟨decide_eq_true hlen, rfl⟩
  | ethHdr hlen => exact ⟨decide_eq_true hlen, rfl⟩
  | ethNotIp hlen htype => exact ⟨decide_eq_true ⟨hlen, htype⟩, rfl⟩
  | ipEmpty hlen => exact ⟨decide_eq_true ⟨hlen.ge, Nat.lt_succ_of_le hlen.le⟩, rfl⟩
  | ipBadVer hlen _ => exact ⟨decide_eq_true hlen, rfl⟩
  | ipBadIhl hlen _ _ => exact ⟨decide_eq_true hlen, rfl⟩
  | ipTrunc hlen _ _ hoff => exact ⟨decide_eq_true ⟨hlen, (transportOffset_toNat _).symm ▸ hoff⟩, rfl⟩
  | ipHdr _ _ hoff => exact ⟨decide_eq_true ((transportOffset_toNat _).symm ▸ hoff), rfl⟩
  | tcpTrunc hlegal hoff hroom => exact ⟨Bool.and_eq_true_iff.2 ⟨hlegal, decide_eq_true ⟨hoff, hroom⟩⟩, rfl⟩
  | tcpHdr _ hroom => exact ⟨decide_eq_true hroom, rfl⟩
  | udpTrunc hlegal hoff hroom => exact ⟨Bool.and_eq_true_iff.2 ⟨hlegal, decide_eq_true ⟨hoff, hroom⟩⟩, rfl⟩
  | udpHdr _ hroom => exact ⟨decide_eq_true hroom, rfl⟩
  | l4Unsup hlegal hoff htcp hudp =>
    exact ⟨Bool.and_eq_true_iff.2 ⟨hlegal, decide_eq_true ⟨hoff, htcp, hudp⟩⟩, rfl⟩

/-- Settles O7: the encoding is a selector of the operation's own row, and the decoder answers what its row says. -/
theorem decodeOfEncodeIsIdentity : Obligations.DecodeOfEncodeIsIdentity :=
  fun _ _ hwf hguard => decode_of_selects (selects_encode hwf hguard)

/-- Settles O8: the context is that of the selector's own fields. -/
theorem selectorIsEncodingOfItsOperation : Obligations.SelectorIsEncodingOfItsOperation :=
  fun x _ hdec => ⟨x.context, encode_of_selects (selects_of_decode hdec)⟩

/-- Settles O9: each word meets the tests of its row of the dispatch map. -/
theorem writtenOutSelectorsDecode : Obligations.WrittenOutSelectorsDecode := by
  refine ⟨decode_of_selects .decode, decode_of_selects (.ethShort ?_), decode_of_selects (.ethHdr ?_),
    decode_of_selects (.ethNotIp ?_ ?_), decode_of_selects (.ipEmpty ?_), decode_of_selects (.ipBadVer ?_ ?_),
    decode_of_selects (.ipBadIhl ?_ ?_ ?_), decode_of_selects (.ipTrunc ?_ ?_ ?_ ?_),
    decode_of_selects (.ipHdr (b0 := 0x4f#8) ?_ ?_ ?_), decode_of_selects (.tcpTrunc ?_ ?_ ?_),
    decode_of_selects (.tcpHdr ?_ ?_), decode_of_selects (.udpTrunc ?_ ?_ ?_), decode_of_selects (.udpHdr ?_ ?_),
    decode_of_selects (.l4Unsup ?_ ?_ ?_ ?_)⟩
  all_goals decide

end Sys2Proof

/-! SUPPORT. The layout of the result record (30_encoding.md R35): what stands at a bit range of the packed record, and a
consumer's reading of it. -/

namespace Sys2Proof.Machine

/-- The bit range of a field, read where the field was put, is the field. -/
theorem extractLsb'_atBit_self {w lo : Nat} (v : BitVec w) (h : lo + w ≤ 288) :
    (atBit lo v).extractLsb' lo w = v := by
  ext i hi
  have hbit : lo + i < 288 := by omega
  simp [atBit, hbit, hi]

/-- A field that starts at the end of the range or past it leaves the range 0. -/
theorem extractLsb'_atBit_of_le {w lo : Nat} (v : BitVec w) {a n : Nat} (h : a + n ≤ lo) :
    (atBit lo v).extractLsb' a n = 0#n := by
  ext i hi
  have hbit : a + i < lo := by omega
  simp [atBit, hbit]

/-- A field that ends before the range leaves the range 0. -/
theorem extractLsb'_atBit_of_ge {w lo : Nat} (v : BitVec w) {a n : Nat} (h : lo + w ≤ a) :
    (atBit lo v).extractLsb' a n = 0#n := by
  ext i hi
  have hbit : w ≤ a + i - lo := by omega
  simp [atBit, BitVec.getLsbD_of_ge v _ hbit]

/-- Settles O10: at each range the field that was put there is read back, and the 18 others, which lie below or above it,
leave it 0. -/
theorem recordFieldsAtTheirBits : Obligations.RecordFieldsAtTheirBits := by
  intro r
  simp (disch := omega) only [Record.pack, BitVec.extractLsb'_or, extractLsb'_atBit_self, extractLsb'_atBit_of_le,
    extractLsb'_atBit_of_ge, BitVec.or_zero, BitVec.zero_or, and_self]

/-- A consumer reads back each code of `l2_status`. -/
theorem l2OfCode_code (l2 : L2Status) : l2OfCode l2.code = l2 := by
  cases l2 <;> decide

/-- A consumer reads back each code of `l3_status`. -/
theorem l3OfCode_code (l3 : L3Status) : l3OfCode l3.code = some l3 := by
  cases l3 <;> decide

/-- A consumer reads back each code of `l4_status`. -/
theorem l4OfCode_code (l4 : L4Status) : l4OfCode l4.code = some l4 := by
  cases l4 <;> decide

/-- A consumer reads back each code of `err_class`. -/
theorem errOfCode_code (c : ErrClass) : errOfCode c.code = c := by
  cases c <;> decide

/-- Settles O11: every bit range holds its field, and every code is read back. -/
theorem unpackOfPackIsIdentity : Obligations.UnpackOfPackIsIdentity := by
  intro r
  obtain ⟨hl2, hl3, hl4, herr, hoff, hdst, hsrc, htype, hver, hihl, httl, hproto, hipSrc, hipDst, hsport, hdport, hflags,
    hudpLen, hcsum⟩ := recordFieldsAtTheirBits r
  simp only [Record.unpack, hl2, hl3, hl4, herr, hoff, hdst, hsrc, htype, hver, hihl, httl, hproto, hipSrc, hipDst, hsport,
    hdport, hflags, hudpLen, hcsum, l2OfCode_code, l3OfCode_code, l4OfCode_code, errOfCode_code]

/-- Settles O12: the two ranges hold codes of statuses, and no status has a reserved code. -/
theorem reservedCodesNeverProduced : Obligations.ReservedCodesNeverProduced := by
  intro r
  obtain ⟨-, hl3, hl4, -⟩ := recordFieldsAtTheirBits r
  rw [hl3, hl4]
  refine ⟨?_, ?_, ?_⟩
  · cases r.l3Status <;> decide
  · cases r.l4Status <;> decide
  · cases r.l4Status <;> decide

/-- `DECODE` takes the snapshot, clears the record and goes on to layer 2 (40_decode_top.md R45). -/
theorem exec_decode (s : State) :
    exec .decode s = .next { s with txn := s.operands, res := Record.zero, point := .layer2 } :=
  rfl

/-- Settles O13: the row of the dispatch map, the next state, and the record of which only the class, 0, is packed. -/
theorem decodeOpensTransaction : Obligations.DecodeOpensTransaction := by
  refine ⟨fun x => decode_eq_ok.trans ⟨fun h => ?selected, ?selects⟩, exec_decode,
    (pack_zero_with_errClass .none).trans (by simp [atBit, ErrClass.code])⟩
  case selected =>
    cases h with
    | decode => rfl
  case selects =>
    rintro rfl
    exact .decode

end Sys2Proof.Machine

/-! SUPPORT. The guarded reads whole (00_scope.md §6, 20_memory.md R17, R18): which of the three answers each gives. -/

namespace Sys2Proof.Machine

/-- A read that ends past the frame is the fault of U11. -/
theorem guardRead_pastFrame {α : Type} {t : Transaction} {a n : Nat} (v : α) (h : t.len.toNat < a + n) :
    guardRead t a n v = .error .pastFrame :=
  if_pos h

/-- A read inside the frame that ends past the window is a fault too (log 21). -/
theorem guardRead_pastWindow {α : Type} {t : Transaction} {a n : Nat} (v : α) (h : a + n ≤ t.len.toNat)
    (hw : Config.hdrBytes < a + n) : guardRead t a n v = .error .pastWindow :=
  (if_neg (Nat.not_lt.2 h)).trans (if_pos hw)

/-- Settles O27: each width is the guarded read of its value, and the guard has these three answers. -/
theorem memReadIsBoundsChecked : Obligations.MemReadIsBoundsChecked :=
  fun _ _ => ⟨memRead1_ok, memRead2_ok, memRead4_ok, memRead6_ok, guardRead_pastFrame _, guardRead_pastFrame _,
    guardRead_pastFrame _, guardRead_pastFrame _, guardRead_pastWindow _, guardRead_pastWindow _,
    guardRead_pastWindow _, guardRead_pastWindow _⟩

end Sys2Proof.Machine

/-! SUPPORT. `DECODE` as a function (40_decode_top.md R45): every frame has one of the eleven outcomes, each outcome is what the
pseudocode answers, and what the multiplexer structure (R48, 43_transport.md R71) gives. -/

namespace Sys2Proof.Machine

/-- Below a whole IPv4 header that the frame holds, the protocol and the room decide between the five transport outcomes. -/
theorem exists_outcome_of_ipPresent {t : Transaction} (hip : IpPresent t) : ∃ r, DecodeOutcome t r := by
  by_cases htcp : t.byte 23 = protoTcp
  · rcases Nat.lt_or_ge t.len.toNat (14 + 4 * (ipIhl (t.byte 14)).toNat + 20) with hroom | hroom
    · exact ⟨_, .tcpTrunc hip htcp hroom⟩
    · exact ⟨_, .tcpHdr hip htcp hroom⟩
  · by_cases hudp : t.byte 23 = protoUdp
    · rcases Nat.lt_or_ge t.len.toNat (14 + 4 * (ipIhl (t.byte 14)).toNat + 8) with hroom | hroom
      · exact ⟨_, .udpTrunc hip hudp hroom⟩
      · exact ⟨_, .udpHdr hip hudp hroom⟩
    · exact ⟨_, .l4Unsup hip htcp hudp⟩

/-- Every frame has an outcome (60_exceptions.md R73). -/
theorem exists_outcome (t : Transaction) : ∃ r, DecodeOutcome t r := by
  rcases Nat.lt_or_ge t.len.toNat 14 with hlen | hlen
  · exact ⟨_, .ethShort hlen⟩
  by_cases htype : bytes2 t 12 = etherTypeIpv4
  swap
  · exact ⟨_, .ethNotIp hlen htype⟩
  rcases hlen.eq_or_lt with hempty | hlen
  · exact ⟨_, .ipEmpty hempty.symm htype⟩
  by_cases hver : ipVersion (t.byte 14) = versionIpv4
  swap
  · exact ⟨_, .ipBadVer hlen htype hver⟩
  rcases Nat.lt_or_ge (ipIhl (t.byte 14)).toNat 5 with hihl | hihl
  · exact ⟨_, .ipBadIhl ⟨hlen, htype, hver⟩ hihl⟩
  rcases Nat.lt_or_ge t.len.toNat (14 + 4 * (ipIhl (t.byte 14)).toNat) with hoff | hoff
  · exact ⟨_, .ipTrunc ⟨hlen, htype, hver⟩ hihl hoff⟩
  · exact exists_outcome_of_ipPresent (ipPresent_iff.2 ⟨⟨hlen, htype, hver⟩, hihl, hoff⟩)

/-- With a whole Ethernet header its reads answer, and the EtherType decides (41_ethernet.md R50 to R52). -/
theorem decodeFrame_of_len {t : Transaction} (hlen : 14 ≤ t.len.toNat) :
    decodeFrame t = if bytes2 t 12 ≠ etherTypeIpv4 then .ok { ethRecord t with l3Status := .notIpv4 }
      else decodeNetwork t (ethRecord t) := by
  have hdst : memRead6 t 0 = .ok (bytes6 t 0) := memRead6_ok (by omega) (by omega)
  have hsrc : memRead6 t 6 = .ok (bytes6 t 6) := memRead6_ok (by omega) (by omega)
  have htype : memRead2 t 12 = .ok (bytes2 t 12) := memRead2_ok hlen (by omega)
  rw [decodeFrame, if_neg (Nat.not_lt.2 hlen), hdst, hsrc, htype]
  rfl

/-- A read that answers passes its value on. -/
theorem ok_bind {α β : Type} (a : α) (f : α → Except Fault β) : (Except.ok a >>= f) = f a :=
  rfl

/-- EtherType 0x0800 enters layer 3 with the record of the Ethernet header (41_ethernet.md R52). -/
theorem decodeFrame_of_etherType {t : Transaction} (hlen : 14 ≤ t.len.toNat) (htype : bytes2 t 12 = etherTypeIpv4) :
    decodeFrame t = decodeNetwork t (ethRecord t) := by
  rw [decodeFrame_of_len hlen, if_neg (not_not.2 htype)]

/-- With byte 14 in the frame its read answers (42_ipv4.md R60). -/
theorem memRead1_byte0 {t : Transaction} (hlen : 15 ≤ t.len.toNat) : memRead1 t 14 = .ok (t.byte 14) :=
  memRead1_ok hlen (by omega)

/-- With a whole IPv4 header its reads answer, and layer 4 decides (42_ipv4.md R58, 43_transport.md R63). -/
theorem decodeFrame_of_ipPresent {t : Transaction} (hip : IpPresent t) :
    decodeFrame t = decodeTransport t (transportOffset (ipIhl (t.byte 14))) (ipRecord t) := by
  obtain ⟨⟨hlen, htype, hver⟩, hihl, hoff⟩ := ipPresent_iff.1 hip
  have httl : memRead1 t 22 = .ok (t.byte 22) := memRead1_ok (by omega) (by omega)
  have hproto : memRead1 t 23 = .ok (t.byte 23) := memRead1_ok (by omega) (by omega)
  have hsrc : memRead4 t 26 = .ok (bytes4 t 26) := memRead4_ok (by omega) (by omega)
  have hdst : memRead4 t 30 = .ok (bytes4 t 30) := memRead4_ok (by omega) (by omega)
  rw [← transportOffset_toNat] at hoff
  rw [decodeFrame_of_etherType (Nat.le_of_succ_le hlen) htype, decodeNetwork, if_neg (Nat.not_lt.2 hlen),
    memRead1_byte0 hlen, ok_bind, if_neg (not_not.2 hver), if_neg (Nat.not_lt.2 hihl), if_neg (Nat.not_lt.2 hoff),
    httl, hproto, hsrc, hdst]
  rfl

/-- The protocol that layer 4 tests is byte 23 (42_ipv4.md R58). -/
theorem ipRecord_ipProto (t : Transaction) : (ipRecord t).ipProto = t.byte 23 :=
  rfl

/-- The highest transport offset is 74 (42_ipv4.md R59). -/
theorem transportOffset_le (ihl : BitVec 4) : (transportOffset ihl).toNat ≤ 74 := by
  have := ihl.isLt
  rw [transportOffset_toNat]
  omega

/-- The pseudocode answers the record of each outcome: its tests are those of the outcome, and its reads are inside the
frame (R45). -/
theorem decodeFrame_of_outcome {t : Transaction} {r : Record} (h : DecodeOutcome t r) : decodeFrame t = .ok r := by
  cases h with
  | ethShort hlen => exact decodeFrame_of_short hlen
  | ethNotIp hlen htype => rw [decodeFrame_of_len hlen, if_pos htype]
  | ipEmpty hlen htype =>
    rw [decodeFrame_of_etherType hlen.ge htype, decodeNetwork, if_pos (Nat.lt_succ_of_le hlen.le)]
    rfl
  | ipBadVer hlen htype hver =>
    rw [decodeFrame_of_etherType (Nat.le_of_succ_le hlen) htype, decodeNetwork, if_neg (Nat.not_lt.2 hlen),
      memRead1_byte0 hlen, ok_bind, if_pos hver]
    rfl
  | ipBadIhl hv4 hihl =>
    obtain ⟨hlen, htype, hver⟩ := hv4
    rw [decodeFrame_of_etherType (Nat.le_of_succ_le hlen) htype, decodeNetwork, if_neg (Nat.not_lt.2 hlen),
      memRead1_byte0 hlen, ok_bind, if_neg (not_not.2 hver), if_pos hihl]
    rfl
  | ipTrunc hv4 hihl hoff =>
    obtain ⟨hlen, htype, hver⟩ := hv4
    rw [← transportOffset_toNat] at hoff
    rw [decodeFrame_of_etherType (Nat.le_of_succ_le hlen) htype, decodeNetwork, if_neg (Nat.not_lt.2 hlen),
      memRead1_byte0 hlen, ok_bind, if_neg (not_not.2 hver), if_neg (Nat.not_lt.2 hihl), if_pos hoff]
    rfl
  | tcpTrunc hip hproto hoff =>
    rw [← transportOffset_toNat] at hoff
    rw [decodeFrame_of_ipPresent hip, decodeTransport, ipRecord_ipProto, if_pos hproto, if_pos hoff]
    rfl
  | tcpHdr hip hproto hoff =>
    rw [← transportOffset_toNat] at hoff
    have hmax := transportOffset_le (ipIhl (t.byte 14))
    rw [decodeFrame_of_ipPresent hip, decodeTransport, ipRecord_ipProto, if_pos hproto, if_neg (Nat.not_lt.2 hoff),
      memRead2_ok (by omega) (by omega), memRead2_ok (by omega) (by omega), memRead1_ok (by omega) (by omega)]
    rfl
  | udpTrunc hip hproto hoff =>
    rw [← transportOffset_toNat] at hoff
    have htcp : t.byte 23 ≠ protoTcp := hproto ▸ by decide
    rw [decodeFrame_of_ipPresent hip, decodeTransport, ipRecord_ipProto, if_neg htcp, if_pos hproto, if_pos hoff]
    rfl
  | udpHdr hip hproto hoff =>
    rw [← transportOffset_toNat] at hoff
    have hmax := transportOffset_le (ipIhl (t.byte 14))
    have htcp : t.byte 23 ≠ protoTcp := hproto ▸ by decide
    rw [decodeFrame_of_ipPresent hip, decodeTransport, ipRecord_ipProto, if_neg htcp, if_pos hproto, if_neg (Nat.not_lt.2 hoff),
      memRead2_ok (by omega) (by omega), memRead2_ok (by omega) (by omega), memRead2_ok (by omega) (by omega),
      memRead2_ok (by omega) (by omega)]
    rfl
  | l4Unsup hip htcp hudp =>
    rw [decodeFrame_of_ipPresent hip, decodeTransport, ipRecord_ipProto, if_neg htcp, if_neg hudp]
    rfl

/-- The multiplexer gives the candidate of a legal IHL (43_transport.md R71). -/
theorem selectByIhl_of_legal {w : Nat} {ihl : BitVec 4} (candidate : Nat → BitVec w) (h : 5 ≤ ihl.toNat) :
    selectByIhl ihl candidate = candidate (ihl.toNat - 5) := by
  have := ihl.isLt
  obtain ⟨k, hk⟩ := Nat.exists_eq_add_of_le h
  have hk11 : k < 11 := by omega
  rw [selectByIhl, hk, Nat.add_sub_cancel_left]
  interval_cases k <;> rfl

end Sys2Proof.Machine

/-! SUPPORT. The multiplexer structure of R48 and 43_transport.md R71 against the outcomes of the pseudocode. -/

namespace Sys2Proof.Machine

/-- Each candidate of the 11-way multiplexer lies at its distance from the transport offset (43_transport.md R71). -/
theorem muxOffset_eq {ihl : BitVec 4} (h : 5 ≤ ihl.toNat) (n : Nat) :
    34 + n + 4 * (ihl.toNat - 5) = (transportOffset ihl).toNat + n := by
  rw [transportOffset_toNat]
  omega

/-- The multiplexer of a 2-byte field gives the 2 bytes at the field's distance from the transport offset (R71). -/
theorem selectByIhl_bytes2 {ihl : BitVec 4} (h : 5 ≤ ihl.toNat) (t : Transaction) (n : Nat) :
    selectByIhl ihl (fun k => t.byte (34 + n + 4 * k) ++ t.byte (34 + (n + 1) + 4 * k)) =
      bytes2 t ((transportOffset ihl).toNat + n) := by
  rw [selectByIhl_of_legal _ h, muxOffset_eq h, muxOffset_eq h]
  rfl

/-- The multiplexer of a 1-byte field likewise (R71). -/
theorem selectByIhl_byte {ihl : BitVec 4} (h : 5 ≤ ihl.toNat) (t : Transaction) (n : Nat) :
    selectByIhl ihl (fun k => t.byte (34 + n + 4 * k)) = t.byte ((transportOffset ihl).toNat + n) := by
  rw [selectByIhl_of_legal _ h, muxOffset_eq h]

/-- The offset wire carries the transport offset (42_ipv4.md R59). -/
theorem ofNat_eq_transportOffset (ihl : BitVec 4) : BitVec.ofNat 7 (14 + 4 * ihl.toNat) = transportOffset ihl := by
  have := ihl.isLt
  apply BitVec.eq_of_toNat_eq
  rw [transportOffset_toNat, BitVec.toNat_ofNat]
  omega

/-- The status that the priority encoder of layer 4 gives, with the room that is tested for each header (R48, R71). -/
def muxL4Status (t : Transaction) : L4Status :=
  if t.byte 23 = protoTcp ∧ (transportOffset (ipIhl (t.byte 14))).toNat + 20 ≤ t.len.toNat then .tcp
  else if t.byte 23 = protoTcp then .tcpTrunc
  else if t.byte 23 = protoUdp ∧ (transportOffset (ipIhl (t.byte 14))).toNat + 8 ≤ t.len.toNat then .udp
  else if t.byte 23 = protoUdp then .udpTrunc
  else .unsupProto

theorem muxL4Status_eq_tcp {t : Transaction} :
    muxL4Status t = .tcp ↔
      t.byte 23 = protoTcp ∧ (transportOffset (ipIhl (t.byte 14))).toNat + 20 ≤ t.len.toNat := by
  rw [muxL4Status]
  repeat' split
  all_goals simp_all

theorem muxL4Status_eq_udp {t : Transaction} :
    muxL4Status t = .udp ↔
      t.byte 23 = protoUdp ∧ (transportOffset (ipIhl (t.byte 14))).toNat + 8 ≤ t.len.toNat := by
  have hne : protoTcp ≠ protoUdp := by decide
  rw [muxL4Status]
  repeat' split
  all_goals simp_all

/-- Below a whole IPv4 header the multiplexer structure is the record of that header with the transport fields selected at the
offset and gated by the status (R48, R71). -/
theorem decodeMux_of_ipPresent {t : Transaction} (hip : IpPresent t) :
    decodeMux t =
      let off := (transportOffset (ipIhl (t.byte 14))).toNat
      let l4 := muxL4Status t
      { ipRecord t with
        l4Status := l4
        errClass := errClassOf .present .present l4
        l4Sport := gate (l4 = .tcp ∨ l4 = .udp) (bytes2 t off)
        l4Dport := gate (l4 = .tcp ∨ l4 = .udp) (bytes2 t (off + 2))
        tcpFlags := gate (l4 = .tcp) (t.byte (off + 13))
        udpLen := gate (l4 = .udp) (bytes2 t (off + 4))
        udpCsum := gate (l4 = .udp) (bytes2 t (off + 6)) } := by
  obtain ⟨⟨hlen, htype, hver⟩, hihl, hoff⟩ := ipPresent_iff.1 hip
  have hlen14 : 14 ≤ t.len.toNat := Nat.le_of_succ_le hlen
  have htype' : t.byte 12 ++ t.byte 13 = 0x0800#16 := htype
  have htcp := muxOffset_eq hihl 20
  have hudp := muxOffset_eq hihl 8
  have hsport := selectByIhl_bytes2 hihl t 0
  have hdport := selectByIhl_bytes2 hihl t 2
  have hudpLen := selectByIhl_bytes2 hihl t 4
  have hcsum := selectByIhl_bytes2 hihl t 6
  have hflags := selectByIhl_byte hihl t 13
  simp only [Nat.reduceAdd, Nat.add_zero] at htcp hudp hsport hdport hudpLen hcsum hflags
  simp [decodeMux, hlen, hlen14, htype', hver, hihl, hoff, htcp, hudp, hsport, hdport, hudpLen, hcsum, hflags,
    ofNat_eq_transportOffset, muxL4Status_eq_tcp, muxL4Status_eq_udp]
  exact ⟨rfl, rfl, rfl, rfl, rfl, (bytes6_eq_append t 0).symm, (bytes6_eq_append t 6).symm, htype.symm, hver.symm, rfl, rfl,
    rfl, (bytes4_eq_append t 26).symm, (bytes4_eq_append t 30).symm⟩

/-- The multiplexer structure gives the record of every outcome (R48, R71). -/
theorem decodeMux_of_outcome {t : Transaction} {r : Record} (h : DecodeOutcome t r) : decodeMux t = r := by
  have hne : protoUdp ≠ protoTcp := by decide
  cases h
  case ethShort hlen =>
    simp [decodeMux, gate, Nat.not_le.2 hlen, errClassOf, Record.zero]
  case ethNotIp hlen htype =>
    have htype : t.byte 12 ++ t.byte 13 ≠ 0x0800#16 := htype
    simp [decodeMux, gate, hlen, htype, errClassOf, ethRecord, Record.zero, bytes6_eq_append, bytes2]
  case ipEmpty hlen htype =>
    have htype' : t.byte 12 ++ t.byte 13 = 0x0800#16 := htype
    simp [decodeMux, gate, hlen, htype', htype, errClassOf, ethRecord, Record.zero, bytes6_eq_append]
  case ipBadVer hlen htype hver =>
    have htype' : t.byte 12 ++ t.byte 13 = 0x0800#16 := htype
    simp [decodeMux, gate, hlen, Nat.le_of_succ_le hlen, htype', htype, hver, errClassOf, ethRecord, Record.zero,
      bytes6_eq_append]
  case ipBadIhl hv4 hihl =>
    obtain ⟨hlen, htype, hver⟩ := hv4
    have htype' : t.byte 12 ++ t.byte 13 = 0x0800#16 := htype
    simp [decodeMux, gate, hlen, Nat.le_of_succ_le hlen, htype', htype, hver, Nat.not_le.2 hihl, errClassOf, ethRecord,
      Record.zero, bytes6_eq_append]
  case ipTrunc hv4 hihl hoff =>
    obtain ⟨hlen, htype, hver⟩ := hv4
    have htype' : t.byte 12 ++ t.byte 13 = 0x0800#16 := htype
    simp [decodeMux, gate, hlen, Nat.le_of_succ_le hlen, htype', htype, hver, hihl, Nat.not_le.2 hoff, errClassOf,
      ethRecord, Record.zero, bytes6_eq_append]
  case tcpTrunc hip hproto hoff | udpTrunc hip hproto hoff =>
    rw [← transportOffset_toNat] at hoff
    simp [decodeMux_of_ipPresent hip, muxL4Status, gate, hproto, hne, Nat.not_le.2 hoff, errClassOf, ipRecord, ethRecord,
      Record.zero]
  case tcpHdr hip hproto hoff | udpHdr hip hproto hoff =>
    rw [← transportOffset_toNat] at hoff
    simp [decodeMux_of_ipPresent hip, muxL4Status, gate, hproto, hne, hoff, errClassOf, ipRecord, ethRecord, Record.zero]
  case l4Unsup hip htcp hudp =>
    simp [decodeMux_of_ipPresent hip, muxL4Status, gate, htcp, hudp, errClassOf, ipRecord, ethRecord, Record.zero]

/-- The multiplexer structure is the outcome of the frame. -/
theorem outcome_decodeMux (t : Transaction) : DecodeOutcome t (decodeMux t) := by
  obtain ⟨r, h⟩ := exists_outcome t
  rwa [decodeMux_of_outcome h]

/-- Settles O36: both are the record of the frame's outcome. -/
theorem decodeEqualsMultiplexerTree : Obligations.DecodeEqualsMultiplexerTree :=
  fun t => decodeFrame_of_outcome (outcome_decodeMux t)

end Sys2Proof.Machine

/-! SUPPORT. Which bytes of a frame matter (20_memory.md R19, R22; 42_ipv4.md R61, R62; 43_transport.md R70). -/

namespace Sys2Proof.Machine

section Congr
variable {t t' : Transaction} {a : Nat}

/-- A value depends on its own bytes only: the one of 2 bytes (20_memory.md R20). -/
theorem bytes2_congr (h : ∀ k, a ≤ k → k < a + 2 → t.byte k = t'.byte k) : bytes2 t a = bytes2 t' a := by
  rw [bytes2, bytes2, h a (by omega) (by omega), h (a + 1) (by omega) (by omega)]

/-- The one of 4 bytes. -/
theorem bytes4_congr (h : ∀ k, a ≤ k → k < a + 4 → t.byte k = t'.byte k) : bytes4 t a = bytes4 t' a := by
  rw [bytes4, bytes4, bytes2_congr fun k _ _ => h k (by omega) (by omega),
    bytes2_congr fun k _ _ => h k (by omega) (by omega)]

/-- The one of 6 bytes. -/
theorem bytes6_congr (h : ∀ k, a ≤ k → k < a + 6 → t.byte k = t'.byte k) : bytes6 t a = bytes6 t' a := by
  rw [bytes6, bytes6, bytes4_congr fun k _ _ => h k (by omega) (by omega),
    bytes2_congr fun k _ _ => h k (by omega) (by omega)]

end Congr

/-- Two transactions of one length that agree on the bytes that are read on the path of the first, layer by layer
(20_memory.md R22). -/
structure AgreeOnReads (t t' : Transaction) : Prop where
  len : t.len = t'.len
  ethernet : 14 ≤ t.len.toNat → ∀ i : Nat, i ≤ 13 → t.byte i = t'.byte i
  byte0 : 15 ≤ t.len.toNat → bytes2 t 12 = etherTypeIpv4 → t.byte 14 = t'.byte 14
  ipv4 : IpPresent t → ∀ i : Nat, i = 22 ∨ i = 23 ∨ (26 ≤ i ∧ i ≤ 33) → t.byte i = t'.byte i
  tcp : IpPresent t → t.byte 23 = protoTcp → (transportOffset (ipIhl (t.byte 14))).toNat + 20 ≤ t.len.toNat →
    ∀ i : Nat, (transportOffset (ipIhl (t.byte 14))).toNat ≤ i →
      i < (transportOffset (ipIhl (t.byte 14))).toNat + 4 ∨ i = (transportOffset (ipIhl (t.byte 14))).toNat + 13 →
      t.byte i = t'.byte i
  udp : IpPresent t → t.byte 23 = protoUdp → (transportOffset (ipIhl (t.byte 14))).toNat + 8 ≤ t.len.toNat →
    ∀ i : Nat, (transportOffset (ipIhl (t.byte 14))).toNat ≤ i →
      i < (transportOffset (ipIhl (t.byte 14))).toNat + 8 → t.byte i = t'.byte i

namespace AgreeOnReads

variable {t t' : Transaction}

/-- The EtherType and the record of the Ethernet header come from bytes 0 to 13. -/
theorem ethernet_eq (h : AgreeOnReads t t') (hlen : 14 ≤ t.len.toNat) :
    bytes2 t 12 = bytes2 t' 12 ∧ ethRecord t = ethRecord t' := by
  have hbyte := h.ethernet hlen
  have htype : bytes2 t 12 = bytes2 t' 12 := bytes2_congr fun k _ _ => hbyte k (by omega)
  have hdst : bytes6 t 0 = bytes6 t' 0 := bytes6_congr fun k _ _ => hbyte k (by omega)
  have hsrc : bytes6 t 6 = bytes6 t' 6 := bytes6_congr fun k _ _ => hbyte k (by omega)
  exact ⟨htype, by rw [ethRecord, hdst, hsrc, htype]; rfl⟩

/-- Byte 0 of the IPv4 header is the same where it is read. -/
theorem version4_iff (h : AgreeOnReads t t') (hv4 : Version4 t) : Version4 t' ∧ t.byte 14 = t'.byte 14 := by
  obtain ⟨hlen, htype, hver⟩ := hv4
  have hb0 := h.byte0 hlen htype
  obtain ⟨htype', -⟩ := h.ethernet_eq (Nat.le_of_succ_le hlen)
  exact ⟨⟨h.len ▸ hlen, htype' ▸ htype, hb0 ▸ hver⟩, hb0⟩

/-- The whole IPv4 header is present in both, with the same record. -/
theorem ipv4_eq (h : AgreeOnReads t t') (hip : IpPresent t) :
    IpPresent t' ∧ t.byte 14 = t'.byte 14 ∧ t.byte 23 = t'.byte 23 ∧ ipRecord t = ipRecord t' := by
  obtain ⟨hv4, hihl, hoff⟩ := ipPresent_iff.1 hip
  obtain ⟨hv4', hb0⟩ := h.version4_iff hv4
  obtain ⟨-, heth⟩ := h.ethernet_eq (Nat.le_of_succ_le hv4.1)
  have hbyte := h.ipv4 hip
  have httl : t.byte 22 = t'.byte 22 := hbyte 22 (by omega)
  have hproto : t.byte 23 = t'.byte 23 := hbyte 23 (by omega)
  have hsrc : bytes4 t 26 = bytes4 t' 26 := bytes4_congr fun k _ _ => hbyte k (by omega)
  have hdst : bytes4 t 30 = bytes4 t' 30 := bytes4_congr fun k _ _ => hbyte k (by omega)
  refine ⟨ipPresent_iff.2 ⟨hv4', hb0 ▸ hihl, hb0 ▸ h.len ▸ hoff⟩, hb0, hproto, ?_⟩
  rw [ipRecord, heth, hb0, httl, hproto, hsrc, hdst]
  rfl

/-- The outcome of the first is the outcome of the second: each of its tests and fields is of bytes that agree. -/
theorem outcome (h : AgreeOnReads t t') {r : Record} (hr : DecodeOutcome t r) : DecodeOutcome t' r := by
  have hlen := h.len
  cases hr with
  | ethShort hshort => exact .ethShort (hlen ▸ hshort)
  | ethNotIp hlong htype =>
    obtain ⟨htype', heth⟩ := h.ethernet_eq hlong
    rw [heth]
    exact .ethNotIp (hlen ▸ hlong) (htype' ▸ htype)
  | ipEmpty hlong htype =>
    obtain ⟨htype', heth⟩ := h.ethernet_eq hlong.ge
    rw [heth]
    exact .ipEmpty (hlen ▸ hlong) (htype' ▸ htype)
  | ipBadVer hlong htype hver =>
    obtain ⟨htype', heth⟩ := h.ethernet_eq (Nat.le_of_succ_le hlong)
    rw [heth, h.byte0 hlong htype] at *
    exact .ipBadVer (hlen ▸ hlong) (htype' ▸ htype) hver
  | ipBadIhl hv4 hihl =>
    obtain ⟨-, heth⟩ := h.ethernet_eq (Nat.le_of_succ_le hv4.1)
    obtain ⟨hv4', hb0⟩ := h.version4_iff hv4
    rw [heth, hb0]
    exact .ipBadIhl hv4' (hb0 ▸ hihl)
  | ipTrunc hv4 hihl hoff =>
    obtain ⟨-, heth⟩ := h.ethernet_eq (Nat.le_of_succ_le hv4.1)
    obtain ⟨hv4', hb0⟩ := h.version4_iff hv4
    rw [heth, hb0]
    exact .ipTrunc hv4' (hb0 ▸ hihl) (hb0 ▸ hlen ▸ hoff)
  | tcpTrunc hip hproto hoff =>
    obtain ⟨hip', hb0, hproto', hrec⟩ := h.ipv4_eq hip
    rw [hrec]
    exact .tcpTrunc hip' (hproto' ▸ hproto) (hb0 ▸ hlen ▸ hoff)
  | tcpHdr hip hproto hoff =>
    obtain ⟨hip', hb0, hproto', hrec⟩ := h.ipv4_eq hip
    have hbyte := h.tcp hip hproto (transportOffset_toNat _ ▸ hoff)
    rw [hrec, bytes2_congr fun k _ _ => hbyte k (by omega) (by omega),
      bytes2_congr fun k _ _ => hbyte k (by omega) (by omega), hbyte _ (Nat.le_add_right _ _) (.inr rfl), hb0]
    exact .tcpHdr hip' (hproto' ▸ hproto) (hb0 ▸ hlen ▸ hoff)
  | udpTrunc hip hproto hoff =>
    obtain ⟨hip', hb0, hproto', hrec⟩ := h.ipv4_eq hip
    rw [hrec]
    exact .udpTrunc hip' (hproto' ▸ hproto) (hb0 ▸ hlen ▸ hoff)
  | udpHdr hip hproto hoff =>
    obtain ⟨hip', hb0, hproto', hrec⟩ := h.ipv4_eq hip
    have hbyte := h.udp hip hproto (transportOffset_toNat _ ▸ hoff)
    rw [hrec, bytes2_congr fun k _ _ => hbyte k (by omega) (by omega),
      bytes2_congr fun k _ _ => hbyte k (by omega) (by omega), bytes2_congr fun k _ _ => hbyte k (by omega) (by omega),
      bytes2_congr fun k _ _ => hbyte k (by omega) (by omega), hb0]
    exact .udpHdr hip' (hproto' ▸ hproto) (hb0 ▸ hlen ▸ hoff)
  | l4Unsup hip htcp hudp =>
    obtain ⟨hip', -, hproto', hrec⟩ := h.ipv4_eq hip
    rw [hrec]
    exact .l4Unsup hip' (hproto' ▸ htcp) (hproto' ▸ hudp)

/-- Transactions that agree on the bytes that are read have the same record. -/
theorem decodeFrame_eq {t t' : Transaction} (h : AgreeOnReads t t') : decodeFrame t = decodeFrame t' := by
  obtain ⟨r, hr⟩ := exists_outcome t
  rw [decodeFrame_of_outcome hr, decodeFrame_of_outcome (h.outcome hr)]

/-- Bytes that agree up to the end of the frame or the window agree where they are read (20_memory.md R19, R23). -/
theorem of_agree_below {t t' : Transaction} (hlen : t.len = t'.len)
    (hbyte : ∀ i : Nat, i < min t.len.toNat 94 → t.byte i = t'.byte i) : AgreeOnReads t t' where
  len := hlen
  ethernet hlong i hi := hbyte i (by omega)
  byte0 hlong _ := hbyte 14 (by omega)
  ipv4 hip i hi := by
    obtain ⟨-, hihl, hoff⟩ := ipPresent_iff.1 hip
    exact hbyte i (by omega)
  tcp _ _ hroom i _ hi := by
    have := transportOffset_le (ipIhl (t.byte 14))
    exact hbyte i (by omega)
  udp _ _ hroom i _ hi := by
    have := transportOffset_le (ipIhl (t.byte 14))
    exact hbyte i (by omega)

end AgreeOnReads

/-- Settles O34: every frame has an outcome, and what agrees below `min(LEN, 94)` agrees where it is read. -/
theorem bytesPastLenAreDontCare : Obligations.BytesPastLenAreDontCare :=
  ⟨fun t => (exists_outcome t).imp fun _ => decodeFrame_of_outcome,
    fun _ _ hlen hbyte => (AgreeOnReads.of_agree_below hlen hbyte).decodeFrame_eq⟩

/-- Settles O35: its hypotheses are the agreement on the bytes that are read, with the transport bytes counted from the
offset. -/
theorem unreadHeaderBytesNeverMatter : Obligations.UnreadHeaderBytesNeverMatter := by
  rintro t t' hlen hethernet hbyte0 hipv4 ⟨htcp, hudp⟩
  refine AgreeOnReads.decodeFrame_eq ⟨hlen, hethernet, hbyte0, hipv4, fun hip hproto hroom i hi hread => ?tcp,
    fun hip hproto hroom i hi hread => ?udp⟩
  case tcp =>
    obtain ⟨k, rfl⟩ := Nat.exists_eq_add_of_le hi
    exact htcp hip hproto hroom k (by omega)
  case udp =>
    obtain ⟨k, rfl⟩ := Nat.exists_eq_add_of_le hi
    exact hudp hip hproto hroom k (by omega)

end Sys2Proof.Machine

/-! SUPPORT. The path of operations that R45 runs on a transaction, one equation per outcome, and its reads (20_memory.md R21 to
R23, 40_decode_top.md R47). -/

namespace Sys2Proof.Machine

section Path
variable {t : Transaction}

theorem decodePath_ethShort (hlen : t.len.toNat < 14) : decodePath t = [.decode, .ethShort] :=
  if_pos hlen

theorem decodePath_ethNotIp (hlen : 14 ≤ t.len.toNat) (htype : bytes2 t 12 ≠ etherTypeIpv4) :
    decodePath t = [.decode, .ethHdr, .ethNotIp] := by
  simp [decodePath, Nat.not_lt.2 hlen, htype]

theorem decodePath_ipEmpty (hlen : t.len.toNat = 14) (htype : bytes2 t 12 = etherTypeIpv4) :
    decodePath t = [.decode, .ethHdr, .ipEmpty] := by
  simp [decodePath, hlen, htype]

theorem decodePath_ipBadVer (hlen : 15 ≤ t.len.toNat) (htype : bytes2 t 12 = etherTypeIpv4)
    (hver : ipVersion (t.byte 14) ≠ versionIpv4) : decodePath t = [.decode, .ethHdr, .ipBadVer (t.byte 14)] := by
  simp [decodePath, Nat.not_lt.2 hlen, Nat.not_lt.2 (Nat.le_of_succ_le hlen), htype, hver]

theorem decodePath_ipBadIhl (hv4 : Version4 t) (hihl : (ipIhl (t.byte 14)).toNat < 5) :
    decodePath t = [.decode, .ethHdr, .ipBadIhl (t.byte 14)] := by
  obtain ⟨hlen, htype, hver⟩ := hv4
  simp [decodePath, Nat.not_lt.2 hlen, Nat.not_lt.2 (Nat.le_of_succ_le hlen), htype, hver, hihl]

theorem decodePath_ipTrunc (hv4 : Version4 t) (hihl : 5 ≤ (ipIhl (t.byte 14)).toNat)
    (hoff : t.len.toNat < 14 + 4 * (ipIhl (t.byte 14)).toNat) :
    decodePath t = [.decode, .ethHdr, .ipTrunc (t.byte 14)] := by
  obtain ⟨hlen, htype, hver⟩ := hv4
  simp [decodePath, Nat.not_lt.2 hlen, Nat.not_lt.2 (Nat.le_of_succ_le hlen), htype, hver, Nat.not_lt.2 hihl,
    transportOffset_toNat, hoff]

/-- The one operation of layer 4, by protocol and room (43_transport.md R63). -/
def transportInstr (t : Transaction) : Instr :=
  let off := transportOffset (ipIhl (t.byte 14))
  if t.byte 23 = protoTcp then if t.len.toNat < off.toNat + 20 then .tcpTrunc else .tcpHdr off
  else if t.byte 23 = protoUdp then if t.len.toNat < off.toNat + 8 then .udpTrunc else .udpHdr off
  else .l4Unsup

/-- With a whole IPv4 header one operation of layer 4 follows (42_ipv4.md R58). -/
theorem decodePath_of_ipPresent (hip : IpPresent t) :
    decodePath t =
      [.decode, .ethHdr, .ipHdr (t.byte 14) (transportOffset (ipIhl (t.byte 14))), transportInstr t] := by
  obtain ⟨⟨hlen, htype, hver⟩, hihl, hoff⟩ := ipPresent_iff.1 hip
  rw [← transportOffset_toNat] at hoff
  simp only [decodePath, transportInstr, Nat.not_lt.2 hlen, Nat.not_lt.2 (Nat.le_of_succ_le hlen), htype, hver,
    Nat.not_lt.2 hihl, Nat.not_lt.2 hoff, ne_eq, not_true_eq_false, if_false]
  repeat' split
  all_goals rfl

theorem transportInstr_tcpTrunc (hproto : t.byte 23 = protoTcp)
    (hoff : t.len.toNat < 14 + 4 * (ipIhl (t.byte 14)).toNat + 20) : transportInstr t = .tcpTrunc := by
  simp [transportInstr, transportOffset_toNat, hproto, hoff]

theorem transportInstr_tcpHdr (hproto : t.byte 23 = protoTcp)
    (hoff : 14 + 4 * (ipIhl (t.byte 14)).toNat + 20 ≤ t.len.toNat) :
    transportInstr t = .tcpHdr (transportOffset (ipIhl (t.byte 14))) := by
  simp [transportInstr, transportOffset_toNat, hproto, Nat.not_lt.2 hoff]

theorem transportInstr_udpTrunc (hproto : t.byte 23 = protoUdp)
    (hoff : t.len.toNat < 14 + 4 * (ipIhl (t.byte 14)).toNat + 8) : transportInstr t = .udpTrunc := by
  have hne : protoUdp ≠ protoTcp := by decide
  simp [transportInstr, transportOffset_toNat, hproto, hne, hoff]

theorem transportInstr_udpHdr (hproto : t.byte 23 = protoUdp)
    (hoff : 14 + 4 * (ipIhl (t.byte 14)).toNat + 8 ≤ t.len.toNat) :
    transportInstr t = .udpHdr (transportOffset (ipIhl (t.byte 14))) := by
  have hne : protoUdp ≠ protoTcp := by decide
  simp [transportInstr, transportOffset_toNat, hproto, hne, Nat.not_lt.2 hoff]

theorem transportInstr_l4Unsup (htcp : t.byte 23 ≠ protoTcp) (hudp : t.byte 23 ≠ protoUdp) :
    transportInstr t = .l4Unsup := by
  simp [transportInstr, htcp, hudp]

/-- Every operation of layer 4 ends the decode (43_transport.md R64 to R68). -/
theorem transportInstr_terminal (t : Transaction) : (transportInstr t).terminal = true := by
  simp only [transportInstr]
  repeat' split
  all_goals rfl

end Path

/-- The three shapes of a path: too short for Ethernet, ended in layer 2 or 3, or ended in layer 4 (R45). -/
theorem decodePath_cases (t : Transaction) :
    decodePath t = [.decode, .ethShort] ∨
      (∃ i, decodePath t = [.decode, .ethHdr, i] ∧ i.terminal = true) ∨
      decodePath t = [.decode, .ethHdr, .ipHdr (t.byte 14) (transportOffset (ipIhl (t.byte 14))), transportInstr t] := by
  obtain ⟨r, h⟩ := exists_outcome t
  cases h with
  | ethShort hlen => exact .inl (decodePath_ethShort hlen)
  | ethNotIp hlen htype => exact .inr (.inl ⟨_, decodePath_ethNotIp hlen htype, rfl⟩)
  | ipEmpty hlen htype => exact .inr (.inl ⟨_, decodePath_ipEmpty hlen htype, rfl⟩)
  | ipBadVer hlen htype hver => exact .inr (.inl ⟨_, decodePath_ipBadVer hlen htype hver, rfl⟩)
  | ipBadIhl hv4 hihl => exact .inr (.inl ⟨_, decodePath_ipBadIhl hv4 hihl, rfl⟩)
  | ipTrunc hv4 hihl hoff => exact .inr (.inl ⟨_, decodePath_ipTrunc hv4 hihl hoff, rfl⟩)
  | tcpTrunc hip | tcpHdr hip | udpTrunc hip | udpHdr hip | l4Unsup hip =>
    exact .inr (.inr (decodePath_of_ipPresent hip))

/-- Settles O30: each shape of a path, split at its last operation. -/
theorem oneTerminalOperationPerTransaction : Obligations.OneTerminalOperationPerTransaction := by
  intro t
  rcases decodePath_cases t with hpath | ⟨i, hpath, hi⟩ | hpath
  · exact ⟨[], .ethShort, hpath, Nat.zero_le _, rfl, by simp⟩
  · exact ⟨[.ethHdr], i, hpath, Nat.le_succ _, hi, by simp [Instr.terminal]⟩
  · exact ⟨[.ethHdr, .ipHdr _ _], transportInstr t, hpath, Nat.le_refl _, transportInstr_terminal t,
      by simp [Instr.terminal]⟩

/-- Reads in ascending order: each starts at `lo` or past the end of the one before, and the last ends by `hi`. -/
def ReadsAscend (lo hi : Nat) : List (Nat × Nat) → Prop
  | [] => lo ≤ hi
  | rd :: rds => lo ≤ rd.1 ∧ ReadsAscend (rd.1 + rd.2) hi rds

/-- Ascending reads lie between their bounds. -/
theorem ReadsAscend.bounds {lo hi : Nat} {rds : List (Nat × Nat)} (h : ReadsAscend lo hi rds) :
    lo ≤ hi ∧ ∀ rd ∈ rds, lo ≤ rd.1 ∧ rd.1 + rd.2 ≤ hi := by
  induction rds generalizing lo with
  | nil => exact ⟨h, by simp⟩
  | cons rd rds ih =>
    obtain ⟨hlo, hrest⟩ := h
    obtain ⟨hhi, hmem⟩ := ih hrest
    refine ⟨by omega, fun rd' hrd' => ?_⟩
    rcases List.mem_cons.1 hrd' with rfl | hrd'
    · exact ⟨hlo, hhi⟩
    · have := hmem rd' hrd'
      omega

/-- Ascending reads are disjoint. -/
theorem ReadsAscend.pairwise {lo hi : Nat} {rds : List (Nat × Nat)} (h : ReadsAscend lo hi rds) :
    rds.Pairwise fun rd rd' => rd.1 + rd.2 ≤ rd'.1 ∨ rd'.1 + rd'.2 ≤ rd.1 := by
  induction rds generalizing lo with
  | nil => exact .nil
  | cons rd rds ih =>
    obtain ⟨-, hrest⟩ := h
    obtain ⟨-, hmem⟩ := hrest.bounds
    exact .cons (fun rd' hrd' => .inl (hmem rd' hrd').1) (ih hrest)

/-- The reads on a path ascend from byte 0 and end inside the frame and by byte 87 (R22, R23). -/
theorem decodePath_reads_ascend (t : Transaction) :
    ReadsAscend 0 (min t.len.toNat 88) ((decodePath t).flatMap instrReads) := by
  obtain ⟨r, h⟩ := exists_outcome t
  have hmax := (ipIhl (t.byte 14)).isLt
  cases h with
  | ethShort hlen => simp [decodePath_ethShort hlen, instrReads, ReadsAscend]
  | ethNotIp hlen htype =>
    simp [decodePath_ethNotIp hlen htype, instrReads, ReadsAscend]
    omega
  | ipEmpty hlen htype => simp [decodePath_ipEmpty hlen htype, instrReads, ReadsAscend, hlen]
  | ipBadVer hlen htype hver =>
    simp [decodePath_ipBadVer hlen htype hver, instrReads, ReadsAscend]
    omega
  | ipBadIhl hv4 hihl =>
    obtain ⟨hlen, -⟩ := id hv4
    simp [decodePath_ipBadIhl hv4 hihl, instrReads, ReadsAscend]
    omega
  | ipTrunc hv4 hihl hoff =>
    obtain ⟨hlen, -⟩ := id hv4
    simp [decodePath_ipTrunc hv4 hihl hoff, instrReads, ReadsAscend]
    omega
  | tcpTrunc hip hproto hroom =>
    obtain ⟨-, hihl, hoff⟩ := ipPresent_iff.1 hip
    simp [decodePath_of_ipPresent hip, transportInstr_tcpTrunc hproto hroom, instrReads, ReadsAscend]
    omega
  | tcpHdr hip hproto hroom =>
    obtain ⟨-, hihl, -⟩ := ipPresent_iff.1 hip
    simp [decodePath_of_ipPresent hip, transportInstr_tcpHdr hproto hroom, instrReads, ReadsAscend,
      transportOffset_toNat]
    omega
  | udpTrunc hip hproto hroom =>
    obtain ⟨-, hihl, hoff⟩ := ipPresent_iff.1 hip
    simp [decodePath_of_ipPresent hip, transportInstr_udpTrunc hproto hroom, instrReads, ReadsAscend]
    omega
  | udpHdr hip hproto hroom =>
    obtain ⟨-, hihl, -⟩ := ipPresent_iff.1 hip
    simp [decodePath_of_ipPresent hip, transportInstr_udpHdr hproto hroom, instrReads, ReadsAscend,
      transportOffset_toNat]
    omega
  | l4Unsup hip htcp hudp =>
    obtain ⟨-, hihl, hoff⟩ := ipPresent_iff.1 hip
    simp [decodePath_of_ipPresent hip, transportInstr_l4Unsup htcp hudp, instrReads, ReadsAscend]
    omega

/-- A terminal operation makes at most four reads (20_memory.md R22). -/
theorem instrReads_length_of_terminal {i : Instr} (h : i.terminal = true) : (instrReads i).length ≤ 4 := by
  cases i with
  | decode | ethHdr | ipHdr => cases h
  | ethShort | ethNotIp | ipEmpty | ipBadVer | ipBadIhl | ipTrunc | tcpTrunc | tcpHdr | udpTrunc | udpHdr | l4Unsup =>
    simp [instrReads]

/-- A path makes at most 12 reads: 3 of Ethernet, 5 of IPv4, and those of its last operation (R47). -/
theorem decodePath_reads_length (t : Transaction) : ((decodePath t).flatMap instrReads).length ≤ 12 := by
  have hdecode : (instrReads .decode).length = 0 := rfl
  have hshort : (instrReads .ethShort).length = 0 := rfl
  have heth : (instrReads .ethHdr).length = 3 := rfl
  have hip : ∀ b0 off, (instrReads (.ipHdr b0 off)).length = 5 := fun _ _ => rfl
  rcases decodePath_cases t with hpath | ⟨i, hpath, hi⟩ | hpath
  · simp only [hpath, List.length_flatMap, List.map, List.sum_cons, List.sum_nil, hdecode, hshort]
    omega
  · have := instrReads_length_of_terminal hi
    simp only [hpath, List.length_flatMap, List.map, List.sum_cons, List.sum_nil, hdecode, heth]
    omega
  · have := instrReads_length_of_terminal (transportInstr_terminal t)
    simp only [hpath, List.length_flatMap, List.map, List.sum_cons, List.sum_nil, hdecode, heth, hip]
    omega

/-- Settles O31: the reads ascend to a bound that is inside the frame and at byte 88. -/
theorem pathReadsInsideFrame : Obligations.PathReadsInsideFrame := by
  refine fun t => ⟨fun i hi rd hrd => ?_, decodePath_reads_length t⟩
  obtain ⟨-, hbound⟩ := (decodePath_reads_ascend t).bounds
  obtain ⟨-, hend⟩ := hbound rd (List.mem_flatMap.2 ⟨i, hi, hrd⟩)
  exact Nat.le_min.1 hend

/-- Settles O32: ascending reads are disjoint. -/
theorem pathReadsDoNotOverlap : Obligations.PathReadsDoNotOverlap :=
  fun t => (decodePath_reads_ascend t).pairwise

/-- The codes of a record are those of the row of the path's last operation, once that is known. -/
theorem outcomeCodes_of_path {t : Transaction} {r : Record} {path : List Instr} {i j : Instr} (hpath : decodePath t = path)
    (hj : path.getLast? = some j) (hcodes : outcomeCodes j = some r.codes) (hi : (decodePath t).getLast? = some i) :
    outcomeCodes i = some r.codes := by
  rw [hpath, hj] at hi
  cases hi
  exact hcodes

/-- Settles O39: the last operation of the path that leads to each outcome has the outcome's codes. -/
theorem outcomeTableHolds : Obligations.OutcomeTableHolds := by
  intro t r i hdec hlast
  cases outcome_of_decodeFrame hdec with
  | ethShort hlen => exact outcomeCodes_of_path (decodePath_ethShort hlen) rfl rfl hlast
  | ethNotIp hlen htype => exact outcomeCodes_of_path (decodePath_ethNotIp hlen htype) rfl rfl hlast
  | ipEmpty hlen htype => exact outcomeCodes_of_path (decodePath_ipEmpty hlen htype) rfl rfl hlast
  | ipBadVer hlen htype hver => exact outcomeCodes_of_path (decodePath_ipBadVer hlen htype hver) rfl rfl hlast
  | ipBadIhl hv4 hihl => exact outcomeCodes_of_path (decodePath_ipBadIhl hv4 hihl) rfl rfl hlast
  | ipTrunc hv4 hihl hoff => exact outcomeCodes_of_path (decodePath_ipTrunc hv4 hihl hoff) rfl rfl hlast
  | tcpTrunc hip hproto hroom =>
    exact outcomeCodes_of_path (decodePath_of_ipPresent hip) (congrArg some (transportInstr_tcpTrunc hproto hroom)) rfl hlast
  | tcpHdr hip hproto hroom =>
    exact outcomeCodes_of_path (decodePath_of_ipPresent hip) (congrArg some (transportInstr_tcpHdr hproto hroom)) rfl hlast
  | udpTrunc hip hproto hroom =>
    exact outcomeCodes_of_path (decodePath_of_ipPresent hip) (congrArg some (transportInstr_udpTrunc hproto hroom)) rfl hlast
  | udpHdr hip hproto hroom =>
    exact outcomeCodes_of_path (decodePath_of_ipPresent hip) (congrArg some (transportInstr_udpHdr hproto hroom)) rfl hlast
  | l4Unsup hip htcp hudp =>
    exact outcomeCodes_of_path (decodePath_of_ipPresent hip) (congrArg some (transportInstr_l4Unsup htcp hudp)) rfl hlast

end Sys2Proof.Machine

/-! SUPPORT. One step, forwards: what is fetched at each point (40_decode_top.md R45), and what the step then is. -/

namespace Sys2Proof.Machine

section Fetch
variable {s : State}

theorem fetch_of_start (h : s.point = .start) : fetch s = .selector (.transaction s.decoding) := by
  rw [fetch, h]

theorem fetch_of_layer2 (h : s.point = .layer2) : fetch s = .selector (.layer2 s.txn.len) := by
  rw [fetch, h]

/-- After `ETH_HDR` byte 14 is fetched where layer 3 is reached, and the EtherType elsewhere (41_ethernet.md R52). -/
theorem fetch_of_afterEth (h : s.point = .afterEth) :
    fetch s = .selector (if s.res.ethType = etherTypeIpv4 ∧ 15 ≤ s.txn.len.toNat
      then .ipv4 (s.txn.byte 14) s.txn.len else .ethType s.res.ethType s.txn.len) := by
  rw [fetch, h]
  by_cases hip : s.res.ethType = etherTypeIpv4 ∧ 15 ≤ s.txn.len.toNat
  · obtain ⟨htype, hlen⟩ := id hip
    have hstay : ¬ (s.res.ethType ≠ etherTypeIpv4 ∨ s.txn.len.toNat < ethHeaderLen + 1) :=
      not_or.2 ⟨not_not.2 htype, Nat.not_lt.2 hlen⟩
    simp only [if_pos hip, if_neg hstay, memRead1_byte0 hlen]
  · have hend : s.res.ethType ≠ etherTypeIpv4 ∨ s.txn.len.toNat < ethHeaderLen + 1 := by
      by_cases htype : s.res.ethType = etherTypeIpv4
      · exact .inr (Nat.lt_of_not_le fun hlen => hip ⟨htype, hlen⟩)
      · exact .inl htype
    simp only [if_neg hip, if_pos hend]

theorem fetch_of_layer4 (h : s.point = .layer4) :
    fetch s = .selector (.proto s.res.ipProto s.res.l4Offset s.txn.len) := by
  rw [fetch, h]

theorem fetch_of_edge (h : s.point = .edge) : fetch s = .edge := by
  rw [fetch, h]

/-- With known control inputs a step does what it finds at the point that is reached (R97). -/
theorem step_of_known (hknown : s.port.known = true) : step s = stepAt s :=
  if_pos hknown

/-- A step is the operation that the fetched selector selects. -/
theorem step_of_decode {x : Selector} {i : Instr} (hknown : s.port.known = true) (hfetch : fetch s = .selector x)
    (hdec : decode x = .ok i) : step s = exec i s := by
  simp only [step_of_known hknown, stepAt, hfetch, hdec]

/-- With no transaction at the output a cycle starts with the idle presentation (70_reset_and_hazards.md R90). -/
theorem step_of_idle (hknown : s.port.known = true) (hpoint : s.point = .start) (hdecoding : s.decoding = false) :
    step s = .next s.idle := by
  simp only [step_of_known hknown, stepAt, fetch_of_start hpoint, hdecoding, decode]

/-- At the edge a step is the clock edge (70_reset_and_hazards.md R87). -/
theorem step_of_edge (hknown : s.port.known = true) (hpoint : s.point = .edge) : step s = .next s.clockEdge := by
  simp only [step_of_known hknown, stepAt, fetch_of_edge hpoint]

end Fetch

/-- Settles O2: the fetch, point by point. -/
theorem fetchReadsLayerSelector : Obligations.FetchReadsLayerSelector :=
  fun _ => ⟨fetch_of_start, fetch_of_layer2, fetch_of_afterEth, fetch_of_layer4, fetch_of_edge⟩

/-- `rst` and `in_valid` are known unless one of them is not (70_reset_and_hazards.md R97). -/
theorem known_eq_false {p : PortIn} : p.known = false ↔ p.rst = .unknown ∨ p.inValid = .unknown := by
  simp only [PortIn.known, decide_eq_false_iff_not, ne_eq, not_and_or, not_not]

/-- Behind the check of the control inputs nothing is refused for one of them. -/
theorem stepAt_ne_unknownControl (s : State) : stepAt s ≠ .refused .unknownControl := by
  unfold stepAt
  split
  · simp
  · simp
  · split
    · exact exec_ne_refused _ _ _
    · simp
    · simp
    · simp

/-- Settles O1: behind the check of the control inputs a step is the fetch, the decoder and the operation. -/
theorem stepRunsDecodedOperation : Obligations.StepRunsDecodedOperation :=
  fun _ _ _ hknown hfetch hdec => step_of_decode hknown hfetch hdec

/-- Settles O3: the idle presentation and the clock edge, whose states are written out. -/
theorem stepWithoutOperation : Obligations.StepWithoutOperation :=
  fun _ hknown => ⟨step_of_idle hknown, step_of_edge hknown⟩

/-- Settles O4: the check of the control inputs refuses, and nothing behind it does for that reason. -/
theorem unknownControlInputIsRefused : Obligations.UnknownControlInputIsRefused := by
  intro s
  rw [← known_eq_false]
  constructor
  · intro h
    by_contra hknown
    rw [Bool.not_eq_false] at hknown
    rw [step_of_known hknown] at h
    exact stepAt_ne_unknownControl s h
  · intro h
    rw [step, h]
    rfl

/-- The last of the stages in which a transaction was placed holds it (log 19). -/
theorem placeLast_getLast? {l : List Stage} (t : Transaction) (h : l ≠ []) :
    (placeLast t l).getLast? = some ⟨true, t, true⟩ := by
  induction l with
  | nil => exact absurd rfl h
  | cons st rest ih =>
    cases rest with
    | nil => rfl
    | cons st' rest =>
      have hrest := ih (List.cons_ne_nil _ _)
      rw [placeLast, List.getLast?_cons, hrest]
      rfl

/-- A valid bit that is placed is a transaction at the output: in the last stage, or on the port when there is none. -/
theorem withSelector_transaction_decoding (s : State) (valid : Bool) :
    (s.withSelector (.transaction valid)).decoding = true := by
  rcases hstages : s.stages with _ | ⟨st, rest⟩
  · simp [State.withSelector, State.decoding, State.accepted, placeLast, hstages]
  · simp [State.withSelector, State.decoding, hstages, placeLast_getLast? _ (List.cons_ne_nil st rest)]

/-- The control inputs of a placed state are known: `rst` is low, and `in_valid` is low or high. -/
theorem withSelector_known (s : State) (x : Selector) : (s.withSelector x).port.known = true := by
  cases x with
  | transaction valid => cases h : s.stages.isEmpty <;> simp [State.withSelector, PortIn.known, h]
  | layer2 | ethType | ipv4 | proto => simp [State.withSelector, PortIn.known]

/-- Where a table row's bits are placed, the next step fetches them (log 19). -/
theorem fetch_withSelector_tableSelector (s : State) (nbits w : Nat) :
    fetch (s.withSelector (tableSelector nbits w)) = .selector (tableSelector nbits w) := by
  unfold tableSelector
  split
  · exact fetch_of_layer2 rfl
  · split
    · split
      · rw [fetch_of_start rfl, withSelector_transaction_decoding]
      · exact fetch_of_layer4 rfl
    · have hshort : ¬ 15 ≤ (14#16).toNat := by decide
      rw [fetch_of_afterEth rfl, if_neg fun hip => hshort hip.2]
      rfl

/-- Settles O5: the placed selector is what the step fetches. -/
theorem placedTableWordRuns : Obligations.PlacedTableWordRuns := by
  intro s nbits w i htable
  rw [decodeTableWord] at htable
  split at htable
  · next hdec =>
    cases htable
    exact step_of_decode (withSelector_known s _) (fetch_withSelector_tableSelector s nbits w) hdec
  · cases htable

end Sys2Proof.Machine

/-! SUPPORT. What an operation can do to the state, and which bytes it depends on (20_memory.md R22). -/

namespace Sys2Proof.Machine

/-- Everything an operation can do when it answers: open a transaction, write the record and go on to the next layer, or
present a record (40_decode_top.md R45). -/
theorem exec_eq_next {i : Instr} {s s' : State} (h : exec i s = .next s') :
    (i = .decode ∧ s' = { s with txn := s.operands, res := Record.zero, point := .layer2 }) ∨
      (i.terminal = false ∧ ∃ r p, s' = { s with res := r, point := p }) ∨
      (i.terminal = true ∧ ∃ r, s' = s.deliver r) := by
  cases i with
  | decode => cases h; exact .inl ⟨rfl, rfl⟩
  | ethHdr => exact .inr (.inl ⟨rfl, _, _, (execEthHdr_next h).2⟩)
  | ipHdr => exact .inr (.inl ⟨rfl, _, _, (execIpHdr_next h).2⟩)
  | tcpHdr => exact .inr (.inr ⟨rfl, _, (execTcpHdr_next h).2⟩)
  | udpHdr => exact .inr (.inr ⟨rfl, _, (execUdpHdr_next h).2⟩)
  | ethShort | ethNotIp | ipEmpty | ipBadVer | ipBadIhl | ipTrunc | tcpTrunc | udpTrunc | l4Unsup =>
    cases h
    exact .inr (.inr ⟨rfl, _, rfl⟩)

/-- Settles O6: none of the three things that an operation can do touches the pipeline. -/
theorem operationsLeavePipelineAlone : Obligations.OperationsLeavePipelineAlone := by
  intro i s s' h
  rcases exec_eq_next h with ⟨rfl, rfl⟩ | ⟨hi, r, p, rfl⟩ | ⟨hi, r, rfl⟩
  · exact ⟨rfl, rfl, rfl, rfl, rfl, rfl, rfl, rfl, rfl, .inl rfl, fun _ => ⟨rfl, rfl, rfl⟩, nofun⟩
  · exact ⟨rfl, rfl, rfl, rfl, rfl, rfl, rfl, rfl, rfl, .inr rfl, fun _ => ⟨rfl, rfl, rfl⟩, fun hi' => by simp [hi] at hi'⟩
  · exact ⟨rfl, rfl, rfl, rfl, rfl, rfl, rfl, rfl, rfl, .inr rfl, fun hi' => by simp [hi] at hi',
      fun _ => ⟨rfl, rfl, rfl, rfl⟩⟩

/-- Two outcomes of an operation are the same but for the window: the same record, outputs and next point, or the same fault. -/
def SameResult (o o' : Host.Outcome State Fault Refusal) : Prop :=
  match o, o' with
  | .next s1, .next s2 => s1.res = s2.res ∧ s1.outValid = s2.outValid ∧ s1.outRes = s2.outRes ∧ s1.point = s2.point
  | .fault f1, .fault f2 => f1 = f2
  | _, _ => False

/-- Reads that answer alike, followed by what does the same with each answer, do the same. -/
theorem sameResult_bind {α : Type} {x x' : Except Fault α} {f f' : α → Except Fault State} (hx : x = x')
    (hf : ∀ a, SameResult (ofReads (f a)) (ofReads (f' a))) : SameResult (ofReads (x >>= f)) (ofReads (x' >>= f')) := by
  subst hx
  cases x with
  | error e => exact rfl
  | ok a => exact hf a

/-- Guarded reads of one value in frames of one length answer alike. -/
theorem guardRead_congr {α : Type} {t t' : Transaction} {v v' : α} (hlen : t.len = t'.len) (hv : v = v') (a n : Nat) :
    guardRead t a n v = guardRead t' a n v' := by
  rw [guardRead, guardRead, hlen, hv]

/-- Settles O33: an operation that reads nothing writes the same record, and one that reads gets the same answers. -/
theorem operationDependsOnItsReadsOnly : Obligations.OperationDependsOnItsReadsOnly := by
  intro i s hdr hi hbyte
  show SameResult (exec i s) (exec i { s with txn := ⟨s.txn.len, hdr⟩ })
  cases i with
  | decode => exact absurd rfl hi
  | ethShort | ethNotIp | ipEmpty | ipBadVer | ipBadIhl | ipTrunc | tcpTrunc | udpTrunc | l4Unsup =>
    exact ⟨rfl, rfl, rfl, rfl⟩
  | ethHdr =>
    have hdst := bytes6_congr (hbyte (0, 6) (by simp [instrReads]))
    have hsrc := bytes6_congr (hbyte (6, 6) (by simp [instrReads]))
    have htype := bytes2_congr (hbyte (12, 2) (by simp [instrReads]))
    exact sameResult_bind (guardRead_congr rfl hdst 0 6) fun _ => sameResult_bind (guardRead_congr rfl hsrc 6 6) fun _ =>
      sameResult_bind (guardRead_congr rfl htype 12 2) fun _ => ⟨rfl, rfl, rfl, rfl⟩
  | ipHdr b0 off =>
    have httl := hbyte (22, 1) (by simp [instrReads]) 22 (by simp) (by simp)
    have hproto := hbyte (23, 1) (by simp [instrReads]) 23 (by simp) (by simp)
    have hsrc := bytes4_congr (hbyte (26, 4) (by simp [instrReads]))
    have hdst := bytes4_congr (hbyte (30, 4) (by simp [instrReads]))
    exact sameResult_bind (guardRead_congr rfl httl 22 1) fun _ => sameResult_bind (guardRead_congr rfl hproto 23 1) fun _ =>
      sameResult_bind (guardRead_congr rfl hsrc 26 4) fun _ => sameResult_bind (guardRead_congr rfl hdst 30 4) fun _ =>
        ⟨rfl, rfl, rfl, rfl⟩
  | tcpHdr off =>
    have hsport := bytes2_congr (hbyte (off.toNat, 2) (by simp [instrReads]))
    have hdport := bytes2_congr (hbyte (off.toNat + 2, 2) (by simp [instrReads]))
    have hflags := hbyte (off.toNat + 13, 1) (by simp [instrReads]) (off.toNat + 13) (by simp) (by simp)
    exact sameResult_bind (guardRead_congr rfl hsport _ 2) fun _ => sameResult_bind (guardRead_congr rfl hdport _ 2) fun _ =>
      sameResult_bind (guardRead_congr rfl hflags _ 1) fun _ => ⟨rfl, rfl, rfl, rfl⟩
  | udpHdr off =>
    have hsport := bytes2_congr (hbyte (off.toNat, 2) (by simp [instrReads]))
    have hdport := bytes2_congr (hbyte (off.toNat + 2, 2) (by simp [instrReads]))
    have hlength := bytes2_congr (hbyte (off.toNat + 4, 2) (by simp [instrReads]))
    have hcsum := bytes2_congr (hbyte (off.toNat + 6, 2) (by simp [instrReads]))
    exact sameResult_bind (guardRead_congr rfl hsport _ 2) fun _ => sameResult_bind (guardRead_congr rfl hdport _ 2) fun _ =>
      sameResult_bind (guardRead_congr rfl hlength _ 2) fun _ => sameResult_bind (guardRead_congr rfl hcsum _ 2) fun _ =>
        ⟨rfl, rfl, rfl, rfl⟩

end Sys2Proof.Machine

/-! SUPPORT. The steps of a decode (40_decode_top.md R45): the states that lie on the way, the operation that each step
performs there, and the whole run. -/

namespace Sys2Proof.Machine

/-- The state in the decode of the transaction at the output of `s`, at a point, with the record so far. -/
def State.decodingAt (s : State) (p : Point) (r : Record) : State :=
  { s with txn := s.operands, res := r, point := p }

/-- The state in which the record of the transaction at the output of `s` is presented. -/
def State.presentRecord (s : State) (r : Record) : State :=
  State.deliver { s with txn := s.operands } r

/-- A state whose snapshot is the transaction at the output is on the way of its decode. -/
theorem decodingAt_self {s : State} (htxn : s.txn = s.operands) : s.decodingAt s.point s.res = s := by
  rw [State.decodingAt, ← htxn]

/-- The step at `s` is the operation `i`, and it answers `s'`. -/
def Performs (s : State) (i : Instr) (s' : State) : Prop :=
  step s = exec i s ∧ exec i s = .next s'

theorem Performs.step_eq {s s' : State} {i : Instr} (h : Performs s i s') : step s = .next s' :=
  h.1.trans h.2

/-- The operation that the fetched selector selects is performed. -/
theorem performs_of_selects {s s' : State} {x : Selector} {i : Instr} (hknown : s.port.known = true)
    (hfetch : fetch s = .selector x) (hsel : Selects x i) (hexec : exec i s = .next s') : Performs s i s' :=
  ⟨step_of_decode hknown hfetch (decode_of_selects hsel), hexec⟩

section Steps
variable {s : State}

/-- A transaction at the output is opened (R45). -/
theorem performs_decode (hknown : s.port.known = true) (hpoint : s.point = .start) (hdecoding : s.decoding = true) :
    Performs s .decode (s.decodingAt .layer2 Record.zero) :=
  performs_of_selects hknown (fetch_of_start hpoint) (hdecoding ▸ .decode) (exec_decode s)

/-- At layer 2 a frame too short for Ethernet ends the decode (41_ethernet.md R49). -/
theorem performs_ethShort (hknown : s.port.known = true) (hlen : s.operands.len.toNat < 14) :
    Performs (s.decodingAt .layer2 Record.zero) .ethShort (s.presentRecord { Record.zero with errClass := .tooShort }) :=
  performs_of_selects hknown (fetch_of_layer2 rfl) (.ethShort hlen) (exec_ethShort _)

/-- At layer 2 the Ethernet header is extracted (41_ethernet.md R50). -/
theorem performs_ethHdr (hknown : s.port.known = true) (hlen : 14 ≤ s.operands.len.toNat) :
    Performs (s.decodingAt .layer2 Record.zero) .ethHdr (s.decodingAt .afterEth (ethRecord s.operands)) :=
  performs_of_selects hknown (fetch_of_layer2 rfl) (.ethHdr hlen) (exec_ethHdr_of_len hlen)

/-- After `ETH_HDR` the EtherType is fetched when it is not IPv4's, or when the frame ends there. -/
theorem fetch_ethType (h : ¬ (bytes2 s.operands 12 = etherTypeIpv4 ∧ 15 ≤ s.operands.len.toNat)) :
    fetch (s.decodingAt .afterEth (ethRecord s.operands)) =
      .selector (.ethType (bytes2 s.operands 12) s.operands.len) := by
  rw [fetch_of_afterEth rfl]
  exact congrArg Fetched.selector (if_neg h)

/-- After `ETH_HDR` byte 14 is fetched in an IPv4 frame that holds it. -/
theorem fetch_byte0 (htype : bytes2 s.operands 12 = etherTypeIpv4) (hlen : 15 ≤ s.operands.len.toNat) :
    fetch (s.decodingAt .afterEth (ethRecord s.operands)) =
      .selector (.ipv4 (s.operands.byte 14) s.operands.len) := by
  rw [fetch_of_afterEth rfl]
  exact congrArg Fetched.selector (if_pos ⟨htype, hlen⟩)

/-- After `ETH_HDR` either the decode ends in layer 2 or 3 with an outcome of the frame, or the IPv4 header is extracted
(41_ethernet.md R52, 42_ipv4.md R60). -/
theorem performs_afterEth (hknown : s.port.known = true) (hlen : 14 ≤ s.operands.len.toNat) :
    (∃ i r, DecodeOutcome s.operands r ∧ decodePath s.operands = [.decode, .ethHdr, i] ∧
      Performs (s.decodingAt .afterEth (ethRecord s.operands)) i (s.presentRecord r)) ∨
    (IpPresent s.operands ∧
      Performs (s.decodingAt .afterEth (ethRecord s.operands))
        (.ipHdr (s.operands.byte 14) (transportOffset (ipIhl (s.operands.byte 14))))
        (s.decodingAt .layer4 (ipRecord s.operands))) := by
  obtain ⟨r, h⟩ := exists_outcome s.operands
  cases id h with
  | ethShort hshort => exact absurd hshort (Nat.not_lt.2 hlen)
  | ethNotIp _ htype =>
    exact .inl ⟨_, _, h, decodePath_ethNotIp hlen htype,
      performs_of_selects hknown (fetch_ethType fun hip => htype hip.1) (.ethNotIp hlen htype) (exec_ethNotIp _)⟩
  | ipEmpty hempty htype =>
    have hfetch := fetch_ethType (s := s) fun hip => by omega
    exact .inl ⟨_, _, h, decodePath_ipEmpty hempty htype,
      performs_of_selects hknown hfetch (htype ▸ .ipEmpty hempty) (exec_ipEmpty _)⟩
  | ipBadVer hlen htype hver =>
    exact .inl ⟨_, _, h, decodePath_ipBadVer hlen htype hver,
      performs_of_selects hknown (fetch_byte0 htype hlen) (.ipBadVer hlen hver) (exec_ipBadVer _ _)⟩
  | ipBadIhl hv4 hihl =>
    obtain ⟨hlen, htype, hver⟩ := id hv4
    exact .inl ⟨_, _, h, decodePath_ipBadIhl hv4 hihl,
      performs_of_selects hknown (fetch_byte0 htype hlen) (.ipBadIhl hlen hver hihl) (exec_ipBadIhl _ _)⟩
  | ipTrunc hv4 hihl hoff =>
    obtain ⟨hlen, htype, hver⟩ := id hv4
    exact .inl ⟨_, _, h, decodePath_ipTrunc hv4 hihl hoff,
      performs_of_selects hknown (fetch_byte0 htype hlen) (.ipTrunc hlen hver hihl hoff) (exec_ipTrunc _ _)⟩
  | tcpTrunc hip | tcpHdr hip | udpTrunc hip | udpHdr hip | l4Unsup hip =>
    obtain ⟨⟨hlen, htype, hver⟩, hihl, hoff⟩ := ipPresent_iff.1 hip
    have hlen34 : 34 ≤ s.operands.len.toNat := by omega
    exact .inr ⟨hip, performs_of_selects hknown (fetch_byte0 htype hlen) (.ipHdr hver hihl hoff)
      (exec_ipHdr_of_len _ _ hlen34)⟩

/-- At layer 4 the decode ends with an outcome of the frame (43_transport.md R63 to R68). -/
theorem performs_layer4 (hknown : s.port.known = true) (hip : IpPresent s.operands) :
    ∃ r, DecodeOutcome s.operands r ∧
      Performs (s.decodingAt .layer4 (ipRecord s.operands)) (transportInstr s.operands) (s.presentRecord r) := by
  obtain ⟨-, hihl, hoff⟩ := ipPresent_iff.1 hip
  have hlegal := isTransportOffset_transportOffset hihl
  have hmax := transportOffset_le (ipIhl (s.operands.byte 14))
  have hnat := transportOffset_toNat (ipIhl (s.operands.byte 14))
  have hfetch : fetch (s.decodingAt .layer4 (ipRecord s.operands)) = .selector (.proto (s.operands.byte 23)
      (transportOffset (ipIhl (s.operands.byte 14))) s.operands.len) := fetch_of_layer4 rfl
  by_cases htcp : s.operands.byte 23 = protoTcp
  · rw [htcp] at hfetch
    rcases Nat.lt_or_ge s.operands.len.toNat (14 + 4 * (ipIhl (s.operands.byte 14)).toNat + 20) with hroom | hroom
    · rw [transportInstr_tcpTrunc htcp hroom]
      exact ⟨_, .tcpTrunc hip htcp hroom, performs_of_selects hknown hfetch
        (.tcpTrunc hlegal (by omega) (by omega)) (exec_tcpTrunc _)⟩
    · have hflags : (transportOffset (ipIhl (s.operands.byte 14))).toNat + 14 ≤ s.operands.len.toNat := by omega
      rw [transportInstr_tcpHdr htcp hroom]
      exact ⟨_, .tcpHdr hip htcp hroom, performs_of_selects hknown hfetch
        (.tcpHdr hlegal (by omega)) (exec_tcpHdr_of_len hflags (by omega))⟩
  · by_cases hudp : s.operands.byte 23 = protoUdp
    · rw [hudp] at hfetch
      rcases Nat.lt_or_ge s.operands.len.toNat (14 + 4 * (ipIhl (s.operands.byte 14)).toNat + 8) with hroom | hroom
      · rw [transportInstr_udpTrunc hudp hroom]
        exact ⟨_, .udpTrunc hip hudp hroom, performs_of_selects hknown hfetch
          (.udpTrunc hlegal (by omega) (by omega)) (exec_udpTrunc _)⟩
      · have hcsum : (transportOffset (ipIhl (s.operands.byte 14))).toNat + 8 ≤ s.operands.len.toNat := by omega
        rw [transportInstr_udpHdr hudp hroom]
        exact ⟨_, .udpHdr hip hudp hroom, performs_of_selects hknown hfetch
          (.udpHdr hlegal (by omega)) (exec_udpHdr_of_len hcsum (by omega))⟩
    · rw [transportInstr_l4Unsup htcp hudp]
      exact ⟨_, .l4Unsup hip htcp hudp, performs_of_selects hknown hfetch
        (.l4Unsup hlegal (by omega) htcp hudp) (exec_l4Unsup _)⟩

end Steps

/-- Steps that perform the operations of a list in order, and stay inside the cycle. -/
inductive Performing : State → List Instr → State → Prop where
  | nil (s : State) : Performing s [] s
  | cons {s s' s'' : State} {i : Instr} {is : List Instr} (head : Performs s i s') (inside : s'.point ≠ .start)
      (tail : Performing s' is s'') : Performing s (i :: is) s''

/-- The steps from the start of a cycle perform the operations that R45 runs on the transaction at the output, and the last of
them presents its record (40_decode_top.md R45). -/
theorem performing_decodePath {s : State} (hknown : s.port.known = true) (hpoint : s.point = .start)
    (hdecoding : s.decoding = true) :
    Performing s (decodePath s.operands) (s.presentRecord (decodeMux s.operands)) := by
  have hdecode := performs_decode hknown hpoint hdecoding
  rcases Nat.lt_or_ge s.operands.len.toNat 14 with hshort | hlen
  · rw [decodePath_ethShort hshort, decodeMux_of_outcome (.ethShort hshort)]
    exact .cons hdecode nofun (.cons (performs_ethShort hknown hshort) nofun (.nil _))
  · have heth := performs_ethHdr hknown hlen
    rcases performs_afterEth hknown hlen with ⟨i, r, hr, hpath, hlast⟩ | ⟨hip, hipHdr⟩
    · rw [hpath, decodeMux_of_outcome hr]
      exact .cons hdecode nofun (.cons heth nofun (.cons hlast nofun (.nil _)))
    · obtain ⟨r, hr, hlast⟩ := performs_layer4 hknown hip
      rw [decodePath_of_ipPresent hip, decodeMux_of_outcome hr]
      exact .cons hdecode nofun (.cons heth nofun (.cons hipHdr nofun (.cons hlast nofun (.nil _))))

/-- A step that answers is the first of a longer run. -/
theorem core_run_succ {s s' : State} (h : step s = .next s') (k : Nat) :
    Host.Core.run Sys2Proof.core (k + 1) s = Host.Core.run Sys2Proof.core k s' := by
  have hcore : Sys2Proof.core.step s = Host.Outcome.next s' := h
  simp only [Host.Core.run, hcore]

namespace Performing

variable {s s' : State} {is : List Instr}

/-- As many steps as operations lead to the last state. -/
theorem core_run (h : Performing s is s') : Host.Core.run Sys2Proof.core is.length s = Host.Outcome.next s' := by
  induction h with
  | nil => rfl
  | cons head _ _ ih => rw [List.length_cons, core_run_succ head.step_eq, ih]

/-- The `k`-th step is the `k`-th operation. -/
theorem step_at (h : Performing s is s') {k : Nat} {i : Instr} (hk : is[k]? = some i) :
    ∃ sk : State, Host.Core.run Sys2Proof.core k s = Host.Outcome.next sk ∧ step sk = exec i sk := by
  induction h generalizing k with
  | nil => simp at hk
  | cons head _ _ ih =>
    cases k with
    | zero =>
      cases hk
      exact ⟨_, rfl, head.1⟩
    | succ k =>
      obtain ⟨sk, hrun, hstep⟩ := ih hk
      exact ⟨sk, (core_run_succ head.step_eq k).trans hrun, hstep⟩

/-- A run to the next start of a cycle goes through them all. -/
theorem runToStart_add (h : Performing s is s') (n : Nat) : runToStart (is.length + n) s = runToStart n s' := by
  induction h with
  | nil => rw [List.length_nil, Nat.zero_add]
  | cons head inside _ ih =>
    rw [List.length_cons, Nat.add_right_comm, runToStart, head.step_eq]
    exact (if_neg inside).trans ih

end Performing

/-- Settles O37: the steps perform the path, whose last operation presents the record. -/
theorem stepsOfACycleComputeDecode : Obligations.StepsOfACycleComputeDecode := by
  refine ⟨fun s r hpoint hknown hdecoding hdec => ?_, fun s k i hpoint hknown hdecoding hk =>
    (performing_decodePath hknown hpoint hdecoding).step_at hk⟩
  rw [← decodeMux_of_outcome (outcome_of_decodeFrame hdec)]
  exact (performing_decodePath hknown hpoint hdecoding).core_run

/-- From the edge the clock edge completes the cycle. -/
theorem runToStart_of_edge {s : State} (hknown : s.port.known = true) (hpoint : s.point = .edge) (n : Nat) :
    runToStart (n + 1) s = .next s.clockEdge := by
  rw [runToStart, step_of_edge hknown hpoint]
  exact if_pos rfl

/-- A path has at most four operations (R47). -/
theorem decodePath_length_le (t : Transaction) : (decodePath t).length ≤ 4 := by
  rcases decodePath_cases t with hpath | ⟨i, hpath, -⟩ | hpath
  all_goals
    rw [hpath]
    simp

/-- A cycle from its start is one whole cycle at once. -/
theorem runCycle_eq {s : State} (hpoint : s.point = .start) (hknown : s.port.known = true) :
    runCycle s = .next s.wholeCycle := by
  unfold runCycle State.wholeCycle
  cases hdecoding : s.decoding with
  | true =>
    obtain ⟨n, hn⟩ := Nat.exists_eq_add_of_le (decodePath_length_le s.operands)
    have hfuel : 6 = (decodePath s.operands).length + (n + 2) := by omega
    rw [hfuel, (performing_decodePath hknown hpoint hdecoding).runToStart_add]
    exact runToStart_of_edge (s := s.presentRecord (decodeMux s.operands)) hknown rfl (n + 1)
  | false =>
    rw [runToStart, step_of_idle hknown hpoint hdecoding]
    exact runToStart_of_edge (s := s.idle) hknown rfl 4

/-- Settles O44: the operations of a decode, or the idle presentation, and then the clock edge. -/
theorem runOfStepsIsOneCycle : Obligations.RunOfStepsIsOneCycle :=
  fun _ => runCycle_eq

end Sys2Proof.Machine

/-! SUPPORT. The invariant (40_decode_top.md, 70_reset_and_hazards.md): it holds at reset and at power-up, and each of the four
things a step can do keeps it. -/

namespace Sys2Proof.Machine

/-- Settles O40: every stage is the same invalid one. -/
theorem resetClearsValidBits : Obligations.ResetClearsValidBits := by
  refine fun p => ⟨List.length_replicate, fun st hst => ?_, rfl, rfl⟩
  rw [List.eq_of_mem_replicate hst]

/-- An empty observation is sound. -/
theorem observationSound_of_nil {s : State} (h : s.observed = []) : s.ObservationSound := by
  simp [State.ObservationSound, h]

/-- The machine right after reset, at every depth (70_reset_and_hazards.md R89). -/
theorem resetAt_inv {p : Nat} (hp : p ≤ 3) : (State.resetAt p).Inv := by
  obtain ⟨hlen, hinvalid, -, hobserved⟩ := resetClearsValidBits p
  refine ⟨hlen.trans_le hp, trivial, observationSound_of_nil hobserved, fun _ st hst hv => ?_, fun _ => hobserved⟩
  rw [hinvalid st hst] at hv
  cases hv

/-- Settles O41: nothing is observed, no decode is under way, and no valid bit stands after a reset. -/
theorem invariantHoldsAtReset : Obligations.InvariantHoldsAtReset := by
  refine ⟨fun p => resetAt_inv, resetAt_inv (by decide), ?_⟩
  rintro s ⟨hlen, hpoint, -, hreset, hobserved⟩
  refine ⟨hlen, ?_, observationSound_of_nil hobserved, fun h => ?_, fun _ => hobserved⟩
  · rw [State.DecodeSound, hpoint]
    trivial
  · rw [hreset] at h
    cases h

/-- Everything a step does from a sound state (R45, R87, R90): the clock edge, the idle presentation, an operation that goes on
to another sound point of the decode, or one that presents the outcome of the transaction at the output. -/
theorem step_of_sound {s : State} (hsound : s.DecodeSound) (hknown : s.port.known = true) :
    (s.point = .edge ∧ step s = .next s.clockEdge) ∨
    (s.point ≠ .edge ∧ s.decoding = false ∧ step s = .next s.idle) ∨
    (s.point ≠ .edge ∧ ∃ p r, step s = .next (s.decodingAt p r) ∧ p ≠ .edge ∧ (s.decodingAt p r).DecodeSound) ∨
    (s.point ≠ .edge ∧ s.decoding = true ∧ ∃ r, step s = .next (s.presentRecord r) ∧ DecodeOutcome s.operands r) := by
  have hself : s.txn = s.operands → s.decodingAt s.point s.res = s := decodingAt_self
  unfold State.DecodeSound at hsound
  cases hpoint : s.point with
  | edge => exact .inl ⟨rfl, step_of_edge hknown hpoint⟩
  | start =>
    cases hdecoding : s.decoding with
    | false => exact .inr (.inl ⟨nofun, rfl, step_of_idle hknown hpoint hdecoding⟩)
    | true =>
      exact .inr (.inr (.inl ⟨nofun, _, _, (performs_decode hknown hpoint hdecoding).step_eq, nofun, hdecoding, rfl, rfl⟩))
  | layer2 =>
    rw [hpoint] at hsound
    obtain ⟨hdecoding, htxn, hres⟩ := hsound
    replace hself := hself htxn
    rw [hpoint, hres] at hself
    rcases Nat.lt_or_ge s.operands.len.toNat 14 with hshort | hlen
    · have hstep := (performs_ethShort hknown hshort).step_eq
      rw [hself] at hstep
      exact .inr (.inr (.inr ⟨nofun, hdecoding, _, hstep, .ethShort hshort⟩))
    · have hstep := (performs_ethHdr hknown hlen).step_eq
      rw [hself] at hstep
      exact .inr (.inr (.inl ⟨nofun, _, _, hstep, nofun, hdecoding, rfl, hlen, rfl⟩))
  | afterEth =>
    rw [hpoint] at hsound
    obtain ⟨hdecoding, htxn, hlen, hres⟩ := hsound
    replace hself := hself htxn
    rw [htxn] at hlen hres
    rw [hpoint, hres] at hself
    rcases performs_afterEth hknown hlen with ⟨i, r, hr, -, hlast⟩ | ⟨hip, hipHdr⟩
    · have hstep := hlast.step_eq
      rw [hself] at hstep
      exact .inr (.inr (.inr ⟨nofun, hdecoding, _, hstep, hr⟩))
    · have hstep := hipHdr.step_eq
      rw [hself] at hstep
      exact .inr (.inr (.inl ⟨nofun, _, _, hstep, nofun, hdecoding, rfl, hip, rfl⟩))
  | layer4 =>
    rw [hpoint] at hsound
    obtain ⟨hdecoding, htxn, hip, hres⟩ := hsound
    replace hself := hself htxn
    rw [htxn] at hip hres
    rw [hpoint, hres] at hself
    obtain ⟨r, hr, hlast⟩ := performs_layer4 hknown hip
    have hstep := hlast.step_eq
    rw [hself] at hstep
    exact .inr (.inr (.inr ⟨nofun, hdecoding, _, hstep, hr⟩))

/-- Settles O43: each of the four is a next state. -/
theorem stepNeverStopsInInvariant : Obligations.StepNeverStopsInInvariant := by
  rintro s ⟨-, hsound, -, -⟩ hknown
  rcases step_of_sound hsound hknown with ⟨-, h⟩ | ⟨-, -, h⟩ | ⟨-, p, r, h, -⟩ | ⟨-, -, r, h, -⟩
  all_goals exact ⟨_, h⟩

/-- Before the presentation of a cycle everything observed is of an earlier cycle (70_reset_and_hazards.md R100). -/
theorem observed_before {s : State} (h : s.ObservationSound) (hpoint : s.point ≠ .edge) :
    ∀ o ∈ s.observed, o.cycle < s.cycle := by
  obtain ⟨-, -, hcycle⟩ := h
  exact fun o ho => (hcycle o ho).resolve_right fun hedge => hpoint hedge.2

/-- A step inside the cycle that observes nothing keeps the observation sound. -/
theorem observationSound_of_eq {s s' : State} (h : s.ObservationSound) (hpoint : s.point ≠ .edge)
    (hobserved : s'.observed = s.observed) (hcycle : s'.cycle = s.cycle) : s'.ObservationSound := by
  obtain ⟨hdecode, horder, -⟩ := id h
  rw [State.ObservationSound, hobserved, hcycle]
  exact ⟨hdecode, horder, fun o ho => .inl (observed_before h hpoint o ho)⟩

/-- The presentation of an outcome keeps the observation sound: what it adds is of this cycle (R88, R100). -/
theorem observationSound_presentRecord {s : State} {r : Record} (h : s.ObservationSound) (hpoint : s.point ≠ .edge)
    (hr : DecodeOutcome s.operands r) : (s.presentRecord r).ObservationSound := by
  have hbefore := observed_before h hpoint
  obtain ⟨hdecode, horder, -⟩ := h
  have hobserved : (s.presentRecord r).observed =
      if s.observing then s.observed ++ [⟨s.cycle, s.operands, r.pack⟩] else s.observed := rfl
  have hnew : IsDecodeOf s.operands r.pack := ⟨r, decodeFrame_of_outcome hr, rfl⟩
  unfold State.ObservationSound
  rw [hobserved]
  split
  · refine ⟨fun o ho => ?_, ?_, fun o ho => ?_⟩
    · rcases List.mem_append.1 ho with ho | ho
      · exact hdecode o ho
      · cases List.mem_singleton.1 ho
        exact hnew
    · refine List.pairwise_append.2 ⟨horder, List.pairwise_singleton _ _, fun o ho o' ho' => ?_⟩
      cases List.mem_singleton.1 ho'
      exact hbefore o ho
    · rcases List.mem_append.1 ho with ho | ho
      · exact .inl (hbefore o ho)
      · cases List.mem_singleton.1 ho
        exact .inr ⟨rfl, rfl⟩
  · exact ⟨hdecode, horder, fun o ho => .inl (hbefore o ho)⟩

/-- The clock edge keeps the observation sound: the next cycle is a later one. -/
theorem observationSound_clockEdge {s : State} (h : s.ObservationSound) : s.clockEdge.ObservationSound := by
  obtain ⟨hdecode, horder, hcycle⟩ := h
  refine ⟨hdecode, horder, fun o ho => .inl ?_⟩
  have hle : o.cycle ≤ s.cycle := (hcycle o ho).elim Nat.le_of_lt fun hedge => hedge.1.le
  exact Nat.lt_succ_of_le hle

/-- A valid bit after the clock edge is of a transaction accepted in this cycle, or stood there before (R85, R87, R89). -/
theorem nextStages_valid {s : State} {st : Stage} (hst : st ∈ s.nextStages) (hv : st.v = true) :
    st.accepted = true ∨ (s.port.rst ≠ .high ∧ st ∈ s.stages) := by
  unfold State.nextStages at hst
  split at hst
  · rw [resetStages_invalid hst] at hv
    cases hv
  · next hrst =>
    rw [shiftStages_eq_take] at hst
    rcases List.mem_cons.1 (List.mem_of_mem_take hst) with rfl | hst
    · exact .inl (sampled_accepted hv)
    · exact .inr ⟨hrst, hst⟩

/-- The clock edge keeps the stages and the observation as a reset leaves them (R89, R92, R100). -/
theorem resetSound_clockEdge {s : State} (h : s.ResetSound) : s.clockEdge.ResetSound := by
  obtain ⟨haccepted, hobserved⟩ := h
  refine ⟨fun hreset st hst hv => ?_, fun hobserving => hobserved ?_⟩
  · rcases nextStages_valid hst hv with hnew | ⟨hrst, hold⟩
    · exact hnew
    · rw [clockEdge_resetSeen, decide_eq_false hrst, Bool.or_false] at hreset
      exact haccepted hreset st hold hv
  · simp only [State.observing, clockEdge_resetSeen, clockEdge_stages, Bool.or_eq_false_iff, List.isEmpty_eq_false_iff,
      ← List.length_pos_iff, nextStages_length] at hobserving ⊢
    exact ⟨hobserving.1.1, hobserving.2⟩

/-- Settles O42: each of the four things a step can do keeps each part of the invariant. -/
theorem stepKeepsInvariant : Obligations.StepKeepsInvariant := by
  rintro s s' ⟨hlen, hsound, hobservation, hreset⟩ hstep
  obtain ⟨hknown, -⟩ := step_eq_next hstep
  rcases step_of_sound hsound hknown with ⟨-, h⟩ | ⟨hpoint, hdecoding, h⟩ | ⟨hpoint, p, r, h, hp, hnext⟩ |
    ⟨hpoint, hdecoding, r, h, hr⟩
  all_goals
    rw [hstep] at h
    cases h
  · exact ⟨(nextStages_length s).trans_le hlen, trivial, observationSound_clockEdge hobservation,
      resetSound_clockEdge hreset⟩
  · refine ⟨hlen, ⟨rfl, fun h => ?_⟩, observationSound_of_eq hobservation hpoint rfl rfl, hreset⟩
    exact absurd h (ne_true_of_eq_false hdecoding)
  · exact ⟨hlen, hnext, observationSound_of_eq hobservation hpoint rfl rfl, hreset⟩
  · obtain ⟨haccepted, hobserved⟩ := hreset
    refine ⟨hlen, ⟨(presenting_of_decoding hdecoding).symm, fun _ => ⟨r, decodeFrame_of_outcome hr, rfl⟩⟩,
      observationSound_presentRecord hobservation hpoint hr, haccepted, fun hobserving => ?_⟩
    exact (if_neg (ne_true_of_eq_false hobserving)).trans (hobserved hobserving)

end Sys2Proof.Machine

/-! SUPPORT. One whole cycle, field by field (70_reset_and_hazards.md R86, R87, R90), and the statements about a single cycle. -/

namespace Sys2Proof.Machine

/-- The state in which the outputs of the cycle are settled: the record of the transaction at the output is presented, or a free
value when there is none (R86, R87, R90). -/
def State.presented (s : State) : State :=
  if s.decoding then s.presentRecord (decodeMux s.operands) else s.idle

theorem presented_of_decoding {s : State} (h : s.decoding = true) :
    s.presented = s.presentRecord (decodeMux s.operands) :=
  if_pos h

theorem presented_of_idle {s : State} (h : s.decoding = false) : s.presented = s.idle :=
  if_neg (ne_true_of_eq_false h)

section Presented
variable (s : State)

@[simp] theorem presented_stages : s.presented.stages = s.stages := by unfold State.presented; split <;> rfl
@[simp] theorem presented_port : s.presented.port = s.port := by unfold State.presented; split <;> rfl
@[simp] theorem presented_pending : s.presented.pending = s.pending := by unfold State.presented; split <;> rfl
@[simp] theorem presented_resetSeen : s.presented.resetSeen = s.resetSeen := by unfold State.presented; split <;> rfl
@[simp] theorem presented_cycle : s.presented.cycle = s.cycle := by unfold State.presented; split <;> rfl

/-- `out_valid` is that of R86 and R87, a valid bit of power-up included (R92). -/
@[simp] theorem presented_outValid : s.presented.outValid = s.presenting := by
  cases h : s.decoding with
  | true => rw [presented_of_decoding h, presenting_of_decoding h]; rfl
  | false => rw [presented_of_idle h]; rfl

/-- A whole cycle is its presentation and its clock edge. -/
theorem wholeCycle_eq : s.wholeCycle = s.presented.clockEdge := by
  cases h : s.decoding with
  | true => rw [presented_of_decoding h, State.wholeCycle, if_pos h]; rfl
  | false => rw [presented_of_idle h, State.wholeCycle, if_neg (ne_true_of_eq_false h)]

@[simp] theorem wholeCycle_point : s.wholeCycle.point = .start := by rw [wholeCycle_eq]; rfl
@[simp] theorem wholeCycle_port : s.wholeCycle.port = s.pending.headD PortIn.idle := by simp [wholeCycle_eq]
@[simp] theorem wholeCycle_pending : s.wholeCycle.pending = s.pending.tail := by simp [wholeCycle_eq]
@[simp] theorem wholeCycle_cycle : s.wholeCycle.cycle = s.cycle + 1 := by simp [wholeCycle_eq]
@[simp] theorem wholeCycle_outValid : s.wholeCycle.outValid = s.presenting := by simp [wholeCycle_eq]
theorem wholeCycle_stages : s.wholeCycle.stages = s.presented.nextStages := by rw [wholeCycle_eq]; rfl
@[simp] theorem wholeCycle_stages_length : s.wholeCycle.stages.length = s.stages.length := by simp [wholeCycle_stages]

@[simp] theorem wholeCycle_resetSeen :
    s.wholeCycle.resetSeen = (s.resetSeen || decide (s.port.rst = .high)) := by simp [wholeCycle_eq]

end Presented

section WholeCycle
variable {s : State}

/-- With a transaction at the output the cycle drives its record (R86, R87). -/
theorem wholeCycle_outRes_of_decoding (h : s.decoding = true) : s.wholeCycle.outRes = (decodeMux s.operands).pack := by
  rw [wholeCycle_eq, presented_of_decoding h]
  rfl

/-- With none it drives a free value (R90, R92). -/
theorem wholeCycle_outRes_of_idle (h : s.decoding = false) : s.wholeCycle.outRes = Config.freeRecord s.freeCount := by
  rw [wholeCycle_eq, presented_of_idle h]
  rfl

/-- A cycle that counts observes the record of the transaction at the output (R100). -/
theorem wholeCycle_observed_of_decoding (h : s.decoding = true) (hobserving : s.observing = true) :
    s.wholeCycle.observed = s.observed ++ [⟨s.cycle, s.operands, (decodeMux s.operands).pack⟩] := by
  rw [wholeCycle_eq, presented_of_decoding h]
  exact if_pos hobserving

/-- Without a transaction at the output a cycle observes nothing (R90, R92). -/
theorem wholeCycle_observed_of_idle (h : s.decoding = false) : s.wholeCycle.observed = s.observed := by
  rw [wholeCycle_eq, presented_of_idle h]
  rfl

/-- A cycle that does not count observes nothing (R100). -/
theorem wholeCycle_observed_of_not_observing (h : s.observing = false) : s.wholeCycle.observed = s.observed := by
  cases hdecoding : s.decoding with
  | true =>
    rw [wholeCycle_eq, presented_of_decoding hdecoding]
    exact if_neg (ne_true_of_eq_false h)
  | false => exact wholeCycle_observed_of_idle hdecoding

/-- Once cycles count they count (R100). -/
theorem wholeCycle_observing (h : s.observing = true) : s.wholeCycle.observing = true := by
  simp only [State.observing, Bool.or_eq_true_iff, List.isEmpty_iff_length_eq_zero, wholeCycle_resetSeen,
    wholeCycle_stages_length] at h ⊢
  exact h.imp .inl id

/-- A reset cycle leaves every valid bit 0 (R89). -/
theorem wholeCycle_stages_of_reset (h : s.port.rst = .high) {st : Stage} (hst : st ∈ s.wholeCycle.stages) :
    st.v = false := by
  rw [wholeCycle_stages, State.nextStages, presented_port, if_pos h] at hst
  exact resetStages_invalid hst

/-- A cycle without reset shifts the stages (R87). -/
theorem wholeCycle_stages_of_not_reset (h : s.port.rst ≠ .high) :
    s.wholeCycle.stages = shiftStages s.presented.sampled s.stages := by
  rw [wholeCycle_stages, State.nextStages, presented_port, presented_stages, if_neg h]

end WholeCycle

section Output
variable {s : State}

/-- A transaction is accepted with `in_valid = 1` and `rst = 0` (R85). -/
theorem accepted_iff : s.accepted = true ↔ s.port.inValid = .high ∧ s.port.rst = .low :=
  decide_eq_true_iff

/-- With no stage the port is the output (R86). -/
theorem output_of_no_stage (h : s.stages = []) :
    s.presenting = s.accepted ∧ s.decoding = s.accepted ∧ s.operands = s.port.txn := by
  simp [State.presenting, State.decoding, State.operands, h]

/-- With stages the last of them is the output (R87). -/
theorem output_of_getLast {st : Stage} (h : s.stages.getLast? = some st) :
    s.presenting = st.v ∧ s.decoding = (st.v && st.accepted) ∧ s.operands = st.d := by
  simp [State.presenting, State.decoding, State.operands, h]

/-- With no valid bit standing in a stage nothing is presented from one. -/
theorem presenting_of_invalid (h : ∀ st ∈ s.stages, st.v = false) (hne : s.stages ≠ []) : s.presenting = false := by
  have hlast := List.getLast?_eq_some_getLast hne
  rw [(output_of_getLast hlast).1]
  exact h _ (List.getLast_mem hne)

end Output

/-- Settles O45: the output of each depth, and what a whole cycle drives for it. -/
theorem cycleOutputs : Obligations.CycleOutputs := by
  refine fun s hpoint hknown => ⟨_, runCycle_eq hpoint hknown, fun hempty => ?_, fun st hlast => ?_⟩
  · obtain ⟨hpresenting, hdecoding, hoperands⟩ := output_of_no_stage hempty
    rw [wholeCycle_outValid, hpresenting]
    refine ⟨accepted_iff, fun haccepted => ?_⟩
    rw [wholeCycle_outRes_of_decoding (hdecoding.trans haccepted), hoperands]
  · obtain ⟨hpresenting, hdecoding, hoperands⟩ := output_of_getLast hlast
    refine ⟨(wholeCycle_outValid s).trans hpresenting, fun hv haccepted => ?_, fun hv haccepted => ?_⟩
    · have hdecoding : s.decoding = true := by rw [hdecoding, hv, haccepted]; rfl
      rw [wholeCycle_outRes_of_decoding hdecoding, hoperands]
    · have hdecoding : s.decoding = false := by rw [hdecoding, hv, haccepted]; rfl
      exact ⟨wholeCycle_outRes_of_idle hdecoding, wholeCycle_observed_of_idle hdecoding⟩

/-- After the shift the first stage is the new one (R87). -/
theorem shiftStages_getElem?_zero {new st : Stage} {l : List Stage} (h : (shiftStages new l)[0]? = some st) : st = new := by
  cases l with
  | nil => cases h
  | cons _ _ => cases h; rfl

/-- After the shift each other stage is the one before it (R87). -/
theorem shiftStages_getElem?_succ (new : Stage) {l : List Stage} {k : Nat} (h : k + 1 < l.length) :
    (shiftStages new l)[k + 1]? = l[k]? := by
  rw [shiftStages_eq_take, List.getElem?_take_of_lt h, List.getElem?_cons_succ]

/-- What the first stage takes without reset: the valid bit is `in_valid`, and with it the operands of the port and the mark
(R85, R87). -/
theorem sampled_spec (s : State) :
    (s.sampled.v = true ↔ s.port.inValid = .high) ∧
      (s.port.inValid = .high → s.sampled.d = s.port.txn ∧ s.sampled.accepted = true) := by
  unfold State.sampled
  split
  · next hvalid => exact ⟨iff_of_true rfl hvalid, fun _ => ⟨rfl, rfl⟩⟩
  · next hvalid => exact ⟨iff_of_false (by simp) hvalid, fun h => absurd h hvalid⟩

/-- Settles O46: the stages after the edge are the shift of those before it. -/
theorem clockEdgeShiftsStages : Obligations.ClockEdgeShiftsStages := by
  intro s hrst
  have hshift : s.nextStages = shiftStages s.sampled s.stages := if_neg (by simp [hrst])
  rw [clockEdge_stages, hshift]
  refine ⟨shiftStages_length _ _, fun st hst => ?_, fun k hk => shiftStages_getElem?_succ _ hk⟩
  rw [shiftStages_getElem?_zero hst]
  exact sampled_spec s

/-- Settles O47: in reset the first stage is invalid like all others, and else it is the one that was sampled. -/
theorem acceptedExactlyWhenValidAndNotReset : Obligations.AcceptedExactlyWhenValidAndNotReset := by
  intro s st hknown hst
  rw [clockEdge_stages, State.nextStages] at hst
  split at hst
  · next hrst =>
    have hv := resetStages_invalid (List.mem_of_getElem? hst)
    simp [hv, hrst]
  · next hrst =>
    obtain ⟨hknownRst, -⟩ := of_decide_eq_true hknown
    have hlow : s.port.rst = .low := by cases h : s.port.rst <;> simp_all
    obtain ⟨hvalid, htaken⟩ := sampled_spec s
    rw [shiftStages_getElem?_zero hst, hvalid]
    exact ⟨⟨fun h => ⟨h, hlow⟩, And.left⟩, htaken⟩

/-- Settles O48: the reset cycle clears every valid bit, so that the last one is 0 in the next cycle. -/
theorem resetCycleEmptiesPipeline : Obligations.ResetCycleEmptiesPipeline := by
  intro s hpoint hknown hrst
  have hinvalid : ∀ st ∈ s.wholeCycle.stages, st.v = false := fun _ => wholeCycle_stages_of_reset hrst
  have hseen : s.wholeCycle.resetSeen = true := by simp [hrst]
  refine ⟨_, runCycle_eq hpoint hknown, wholeCycle_point s, wholeCycle_stages_length s, hinvalid, hseen,
    by simp [State.observing, hrst], fun hne hknown' => ⟨_, runCycle_eq (wholeCycle_point s) hknown', ?_⟩⟩
  rw [wholeCycle_outValid, presenting_of_invalid hinvalid hne]

/-- Settles O58: with a stage and no reset seen the cycle does not count. -/
theorem nothingIsObservedBeforeTheFirstReset : Obligations.NothingIsObservedBeforeTheFirstReset := by
  intro s hpoint hknown hne hreset
  have hobserving : s.observing = false := by simp [State.observing, hreset, hne]
  exact ⟨_, runCycle_eq hpoint hknown, wholeCycle_observed_of_not_observing hobserving, by simp [hreset]⟩

/-- Settles O52: what a cycle drives is a function of the operands at the output. -/
theorem recordIndependentOfHistory : Obligations.RecordIndependentOfHistory := by
  intro s1 s2 hpoint1 hpoint2 hknown1 hknown2 hdecoding1 hdecoding2 hoperands
  refine ⟨_, _, runCycle_eq hpoint1 hknown1, runCycle_eq hpoint2 hknown2, ?_, ?_, ?_⟩
  · rw [wholeCycle_outValid, presenting_of_decoding hdecoding1]
  · rw [wholeCycle_outValid, presenting_of_decoding hdecoding2]
  · rw [wholeCycle_outRes_of_decoding hdecoding1, wholeCycle_outRes_of_decoding hdecoding2, hoperands]

/-- A run has ended exactly when no valid bit stands and no transaction is to come (R100). -/
theorem runEnded_iff {s : State} :
    s.runEnded = true ↔ (∀ st ∈ s.stages, st.v = false) ∧ ∀ q ∈ s.port :: s.pending, q.inValid = .low := by
  simp only [State.runEnded, Bool.and_eq_true_iff, List.all_eq_true, Bool.not_eq_true', decide_eq_true_iff]

/-- Of an ended run a cycle presents nothing (R100). -/
theorem presenting_of_runEnded {s : State} (h : s.runEnded = true) : s.presenting = false := by
  obtain ⟨hinvalid, hidle⟩ := runEnded_iff.1 h
  by_cases hne : s.stages = []
  · have hport : s.port.inValid = .low := hidle _ (List.mem_cons_self)
    rw [(output_of_no_stage hne).1]
    simp [State.accepted, hport]
  · exact presenting_of_invalid hinvalid hne

/-- A cycle of an ended run ends no other way (R100). -/
theorem wholeCycle_runEnded {s : State} (h : s.runEnded = true) : s.wholeCycle.runEnded = true := by
  obtain ⟨hinvalid, hidle⟩ := runEnded_iff.1 h
  refine runEnded_iff.2 ⟨fun st hst => ?_, fun q hq => ?_⟩
  · by_cases hrst : s.port.rst = .high
    · exact wholeCycle_stages_of_reset hrst hst
    · rw [wholeCycle_stages_of_not_reset hrst, shiftStages_eq_take] at hst
      rcases List.mem_cons.1 (List.mem_of_mem_take hst) with rfl | hst
      · rw [← Bool.not_eq_true, (sampled_spec _).1, presented_port, hidle _ List.mem_cons_self]
        nofun
      · exact hinvalid st hst
  · rw [wholeCycle_port, wholeCycle_pending] at hq
    cases hpending : s.pending with
    | nil =>
      rw [hpending] at hq
      cases List.mem_singleton.1 hq
      rfl
    | cons q' rest =>
      rw [hpending] at hq
      exact hidle q (List.mem_cons_of_mem _ (hpending ▸ hq))

/-- Settles O53: no valid bit is at the output, and none comes. -/
theorem endedRunPresentsNothing : Obligations.EndedRunPresentsNothing := by
  intro s hpoint hknown hended
  have hpresenting := presenting_of_runEnded hended
  have hdecoding : s.decoding = false :=
    Bool.eq_false_iff.2 fun h => Bool.false_ne_true (hpresenting.symm.trans (presenting_of_decoding h))
  exact ⟨_, runCycle_eq hpoint hknown, wholeCycle_runEnded hended, (wholeCycle_outValid s).trans hpresenting,
    wholeCycle_observed_of_idle hdecoding⟩

end Sys2Proof.Machine

/-! SUPPORT. Many cycles (70_reset_and_hazards.md R87, R88, R91): what is due at the output `k` cycles from now. The stages and
the host's port values are one queue, of which each cycle takes the first. -/

namespace Sys2Proof.Machine

/-- The accepted transaction that a stage holds, if it holds one. -/
def Stage.item (st : Stage) : Option Transaction := if st.v && st.accepted then some st.d else none

/-- The transaction that is accepted from port values, if one is (R85). -/
def PortIn.item (q : PortIn) : Option Transaction :=
  if q.inValid = .high ∧ q.rst = .low then some q.txn else none

/-- The port values `k` cycles from now (R99). -/
def State.portAt (s : State) (k : Nat) : PortIn := (s.port :: s.pending).getD k PortIn.idle

/-- The transaction due at the output `k` cycles from now: first those in the stages, the last stage first, then those on the
port (R87). -/
def State.due (s : State) (k : Nat) : Option Transaction :=
  if k < s.stages.length then s.stages[s.stages.length - 1 - k]?.bind Stage.item
  else (s.portAt (k - s.stages.length)).item

section Due
variable {s : State}

/-- What is due now is the transaction at the output (R86, R87). -/
theorem due_zero (s : State) : s.due 0 = if s.decoding then some s.operands else none := by
  unfold State.due
  cases hlast : s.stages.getLast? with
  | none =>
    obtain ⟨-, hdecoding, hoperands⟩ := output_of_no_stage (List.getLast?_eq_none_iff.1 hlast)
    simp [List.getLast?_eq_none_iff.1 hlast, hdecoding, hoperands, State.portAt, PortIn.item, State.accepted]
  | some st =>
    obtain ⟨-, hdecoding, hoperands⟩ := output_of_getLast hlast
    have hpos : 0 < s.stages.length := List.length_pos_iff.2 fun h => by simp [h] at hlast
    rw [if_pos hpos, Nat.sub_zero, ← List.getLast?_eq_getElem?, hlast, hdecoding, hoperands]
    rfl

/-- A transaction that is due now is at the output. -/
theorem output_of_due {t : Transaction} (h : s.due 0 = some t) : s.decoding = true ∧ s.operands = t := by
  rw [due_zero] at h
  split at h
  · next hdecoding => exact ⟨hdecoding, Option.some.inj h⟩
  · cases h

/-- When none is due now none is at the output. -/
theorem decoding_of_due_none (h : s.due 0 = none) : s.decoding = false := by
  rw [due_zero] at h
  split at h
  · cases h
  · next hdecoding => exact Bool.eq_false_iff.2 hdecoding

/-- Past the stages what is due comes from the port (R88). -/
theorem due_of_ge {k : Nat} (h : s.stages.length ≤ k) : s.due k = (s.portAt (k - s.stages.length)).item :=
  if_neg (Nat.not_lt.2 h)

/-- In the stages it is what the stage at its distance from the output holds. -/
theorem due_of_lt {k : Nat} (h : k < s.stages.length) :
    s.due k = s.stages[s.stages.length - 1 - k]?.bind Stage.item :=
  if_pos h

/-- Each cycle takes the host's next port values (R99). -/
theorem portAt_wholeCycle (s : State) (k : Nat) : s.wholeCycle.portAt k = s.portAt (k + 1) := by
  rw [State.portAt, State.portAt, wholeCycle_port, wholeCycle_pending, List.getD_cons_succ]
  cases s.pending with
  | nil => cases k <;> rfl
  | cons q rest => rfl

/-- What an edge without reset samples is what the port offers (R85, R87). -/
theorem sampled_item (h : s.port.rst = .low) : s.sampled.item = s.port.item := by
  unfold State.sampled PortIn.item
  split
  · next hvalid => exact (if_pos ⟨hvalid, h⟩).symm
  · next hvalid => exact (if_neg fun hport => hvalid hport.1).symm

/-- A cycle without reset brings everything one cycle nearer (R87). -/
theorem due_wholeCycle (h : s.port.rst = .low) (k : Nat) : s.wholeCycle.due k = s.due (k + 1) := by
  have hnot : s.port.rst ≠ .high := by simp [h]
  rcases Nat.lt_or_ge k s.stages.length with hk | hk
  · rw [due_of_lt (by simpa using hk), wholeCycle_stages_length, wholeCycle_stages_of_not_reset hnot]
    rcases Nat.lt_or_ge (k + 1) s.stages.length with hk' | hk'
    · obtain ⟨j, hj⟩ : ∃ j, s.stages.length - 1 - k = j + 1 := Nat.exists_eq_add_of_le' (by omega)
      have hj' : s.stages.length - 1 - (k + 1) = j := by omega
      rw [due_of_lt hk', hj, hj', shiftStages_getElem?_succ _ (by omega)]
    · have hfirst : s.stages.length - 1 - k = 0 := by omega
      have hport : k + 1 - s.stages.length = 0 := by omega
      rw [due_of_ge hk', hfirst, hport, shiftStages_eq_take, List.getElem?_take_of_lt (by omega)]
      have hitem : s.presented.sampled.item = s.port.item := (sampled_item (by simpa using h)).trans (by simp)
      exact hitem
  · rw [due_of_ge (by simpa using hk), due_of_ge (by omega), portAt_wholeCycle, wholeCycle_stages_length,
      Nat.sub_add_comm hk]

/-- A reset cycle leaves nothing due from the stages (R89). -/
theorem due_wholeCycle_of_reset (h : s.port.rst = .high) {k : Nat} (hk : k < s.stages.length) :
    s.wholeCycle.due k = none := by
  rw [due_of_lt (by simpa using hk), Option.bind_eq_none_iff]
  intro st hst
  have hv := wholeCycle_stages_of_reset h (List.mem_of_getElem? hst)
  rw [Stage.item, hv]
  rfl

/-- Where nothing is due nothing comes to be due, in reset or not (R85, R87, R89). -/
theorem due_wholeCycle_of_none (hknown : s.port.known = true) {k : Nat} (h : s.due (k + 1) = none) :
    s.wholeCycle.due k = none := by
  obtain ⟨hrstKnown, -⟩ := of_decide_eq_true hknown
  cases hrst : s.port.rst with
  | low => rw [due_wholeCycle hrst, h]
  | unknown => exact absurd hrst hrstKnown
  | high =>
    rcases Nat.lt_or_ge k s.stages.length with hk | hk
    · exact due_wholeCycle_of_reset hrst hk
    · rw [due_of_ge (by omega), Nat.sub_add_comm hk] at h
      rw [due_of_ge (by simpa using hk), portAt_wholeCycle, wholeCycle_stages_length, h]

/-- No valid bit stands from power-up (R92). -/
def State.ValidAccepted (s : State) : Prop := ∀ st ∈ s.stages, st.v = true → st.accepted = true

/-- A cycle adds no valid bit but of an accepted transaction (R85, R92). -/
theorem wholeCycle_validAccepted (h : s.ValidAccepted) : s.wholeCycle.ValidAccepted := by
  intro st hst hv
  rw [wholeCycle_stages] at hst
  rcases nextStages_valid hst hv with hnew | ⟨-, hold⟩
  · exact hnew
  · exact h st (presented_stages s ▸ hold) hv

/-- Where no valid bit stands from power-up, all that is presented is decoded (R86, R87). -/
theorem presenting_eq_decoding (h : s.ValidAccepted) : s.presenting = s.decoding := by
  cases hlast : s.stages.getLast? with
  | none =>
    obtain ⟨hpresenting, hdecoding, -⟩ := output_of_no_stage (List.getLast?_eq_none_iff.1 hlast)
    rw [hpresenting, hdecoding]
  | some st =>
    obtain ⟨hpresenting, hdecoding, -⟩ := output_of_getLast hlast
    rw [hpresenting, hdecoding]
    cases hv : st.v with
    | false => rfl
    | true => rw [h st (List.mem_of_getLast? hlast) hv]; rfl

end Due

section Cycles

/-- The last of `n + 1` cycles is one cycle after `n`. -/
theorem wholeCycles_succ (n : Nat) (s : State) :
    State.wholeCycles (n + 1) s = (State.wholeCycles n s).wholeCycle := by
  induction n generalizing s with
  | zero => rfl
  | succ n ih => exact ih s.wholeCycle

/-- `m + n` cycles are `n` cycles after `m`. -/
theorem wholeCycles_add (m n : Nat) (s : State) :
    State.wholeCycles (m + n) s = State.wholeCycles n (State.wholeCycles m s) := by
  induction n with
  | zero => rfl
  | succ n ih => rw [← Nat.add_assoc, wholeCycles_succ, wholeCycles_succ, ih]

/-- Cycles whose control inputs are known are whole cycles. -/
theorem runCycles_eq {n : Nat} {s : State} (hpoint : s.point = .start) (hknown : ∀ k < n, (s.portAt k).known = true) :
    runCycles n s = .next (State.wholeCycles n s) := by
  induction n generalizing s with
  | zero => rfl
  | succ n ih =>
    rw [runCycles, runCycle_eq hpoint (hknown 0 (Nat.succ_pos n))]
    exact ih (wholeCycle_point s) fun k hk => portAt_wholeCycle s k ▸ hknown (k + 1) (Nat.succ_lt_succ hk)

theorem portAt_wholeCycles (n : Nat) (s : State) (k : Nat) : (State.wholeCycles n s).portAt k = s.portAt (n + k) := by
  induction n generalizing k with
  | zero => rw [Nat.zero_add]; rfl
  | succ n ih => rw [wholeCycles_succ, portAt_wholeCycle, ih, Nat.add_right_comm, Nat.add_assoc]

theorem wholeCycles_port (n : Nat) (s : State) : (State.wholeCycles n s).port = s.portAt n :=
  portAt_wholeCycles n s 0

theorem wholeCycles_stages_length (n : Nat) (s : State) :
    (State.wholeCycles n s).stages.length = s.stages.length := by
  induction n with
  | zero => rfl
  | succ n ih => rw [wholeCycles_succ, wholeCycle_stages_length, ih]

theorem wholeCycles_cycle (n : Nat) (s : State) : (State.wholeCycles n s).cycle = s.cycle + n := by
  induction n with
  | zero => rfl
  | succ n ih => rw [wholeCycles_succ, wholeCycle_cycle, ih, Nat.add_assoc]

variable {n : Nat} {s : State}

theorem wholeCycles_observing (h : s.observing = true) : (State.wholeCycles n s).observing = true := by
  induction n with
  | zero => exact h
  | succ n ih => rw [wholeCycles_succ]; exact wholeCycle_observing ih

theorem wholeCycles_validAccepted (h : s.ValidAccepted) : (State.wholeCycles n s).ValidAccepted := by
  induction n with
  | zero => exact h
  | succ n ih => rw [wholeCycles_succ]; exact wholeCycle_validAccepted ih

/-- Over cycles without reset what is due comes nearer cycle by cycle (R88). -/
theorem due_wholeCycles (h : ∀ k < n, (s.portAt k).rst = .low) (k : Nat) :
    (State.wholeCycles n s).due k = s.due (n + k) := by
  induction n generalizing k with
  | zero => rw [Nat.zero_add]; rfl
  | succ n ih =>
    have hrst : (State.wholeCycles n s).port.rst = .low := by rw [wholeCycles_port]; exact h n (Nat.lt_succ_self n)
    rw [wholeCycles_succ, due_wholeCycle hrst, ih (fun k hk => h k (Nat.lt_succ_of_lt hk)), Nat.add_right_comm,
      Nat.add_assoc]

/-- Over any cycles nothing comes of nothing (R91). -/
theorem due_wholeCycles_of_none (hknown : ∀ k < n, (s.portAt k).known = true) {k : Nat} (h : s.due (n + k) = none) :
    (State.wholeCycles n s).due k = none := by
  induction n generalizing k with
  | zero => rwa [Nat.zero_add] at h
  | succ n ih =>
    have hport : (State.wholeCycles n s).port.known = true := by
      rw [wholeCycles_port]; exact hknown n (Nat.lt_succ_self n)
    rw [wholeCycles_succ]
    refine due_wholeCycle_of_none hport (ih (fun k hk => hknown k (Nat.lt_succ_of_lt hk)) ?_)
    rwa [← Nat.add_assoc, Nat.add_right_comm]

/-- One of the next cycles' port values stands in the queue, or is idle (R99). -/
theorem portAt_succ_mem (s : State) {p k : Nat} (hk : k < p) :
    s.portAt (k + 1) ∈ s.pending.take p ∨ s.portAt (k + 1) = PortIn.idle := by
  rw [State.portAt, List.getD_cons_succ, List.getD_eq_getElem?_getD]
  cases hq : s.pending[k]? with
  | none => exact .inr rfl
  | some q => exact .inl (List.mem_of_getElem? ((List.getElem?_take_of_lt hk).trans hq))

/-- What holds of this cycle's port values, of the next ones in the queue and of idle ports holds in all the cycles. -/
theorem forall_portAt {P : PortIn → Prop} {p : Nat} (hport : P s.port) (hpending : ∀ q ∈ s.pending.take (p - 1), P q)
    (hidle : P PortIn.idle) : ∀ k < p, P (s.portAt k) := by
  intro k hk
  cases k with
  | zero => exact hport
  | succ k =>
    rcases portAt_succ_mem s (Nat.lt_sub_of_add_lt hk) with hmem | hidleAt
    · exact hpending _ hmem
    · rw [hidleAt]
      exact hidle

end Cycles

/-- Settles O49: the transaction on the port is due after as many cycles as there are stages, and no reset comes between. -/
theorem latencyIsPipeDepth : Obligations.LatencyIsPipeDepth := by
  intro s p hpoint hp hvalid hrst hknown hlow
  have hport : s.port.known = true := by simp [PortIn.known, hvalid, hrst]
  have hdue : (State.wholeCycles p s).due 0 = some s.port.txn := by
    rw [due_wholeCycles (forall_portAt hrst hlow rfl), Nat.add_zero, due_of_ge hp.le, hp, Nat.sub_self]
    exact if_pos ⟨hvalid, hrst⟩
  obtain ⟨hdecoding, hoperands⟩ := output_of_due hdue
  refine ⟨_, runCycles_eq hpoint (forall_portAt (p := p + 1) hport hknown rfl), ?_, ?_, fun hobserving => ?_⟩
  all_goals rw [wholeCycles_succ]
  · rw [wholeCycle_outValid, presenting_of_decoding hdecoding]
  · rw [wholeCycle_outRes_of_decoding hdecoding, hoperands]
  · rw [wholeCycle_observed_of_decoding hdecoding (wholeCycles_observing hobserving), hoperands, wholeCycles_cycle]
    exact List.mem_append_right _ (List.mem_singleton_self _)

/-- The next port values in the queue are those of the next cycles (R99). -/
theorem portAt_succ_of_lt (s : State) {k : Nat} (hk : k < s.pending.length) : s.portAt (k + 1) = s.pending[k] := by
  rw [State.portAt, List.getD_cons_succ, List.getD_eq_getElem _ _ hk]

/-- A cycle in reset, then fewer cycles than there are stages, and nothing is presented (R91). -/
theorem presenting_after_reset {s : State} {m : Nat} (hrst : s.port.rst = .high) (hm : m < s.stages.length)
    (hknown : ∀ k < m, (s.wholeCycle.portAt k).known = true) :
    (State.wholeCycles m s.wholeCycle).presenting = false := by
  have hvalid : s.wholeCycle.ValidAccepted := fun st hst hv => by
    rw [wholeCycle_stages_of_reset hrst hst] at hv
    cases hv
  rw [presenting_eq_decoding (wholeCycles_validAccepted hvalid)]
  exact decoding_of_due_none (due_wholeCycles_of_none hknown (due_wholeCycle_of_reset hrst hm))

/-- Settles O50: the cycles that are left after the reset are fewer than the stages. -/
theorem resetDiscardsInFlight : Obligations.ResetDiscardsInFlight := by
  rintro s p hpoint hp hport hknown ⟨q, hq, hreset⟩
  have hknownAt : ∀ k < p + 1, (s.portAt k).known = true := forall_portAt (p := p + 1) hport hknown rfl
  obtain ⟨j, hj, rfl⟩ := List.mem_take_iff_getElem.1 hq
  obtain ⟨hjp, hjlen⟩ := Nat.lt_min.1 hj
  rw [← portAt_succ_of_lt s hjlen, ← wholeCycles_port] at hreset
  obtain ⟨m, hm⟩ : ∃ m, p = j + 1 + 1 + m := Nat.exists_eq_add_of_le (by omega)
  have hpresenting := presenting_after_reset (m := m) hreset (by rw [wholeCycles_stages_length]; omega) fun k hk => by
    rw [← wholeCycles_succ, portAt_wholeCycles]
    exact hknownAt _ (by omega)
  refine ⟨_, runCycles_eq hpoint hknownAt, ?_⟩
  rw [wholeCycles_succ, wholeCycle_outValid, hm, wholeCycles_add, wholeCycles_succ (j + 1)]
  exact hpresenting

/-- What is observed in cycle `c` of a transaction that is due then (R100). -/
def presentedAt (c : Nat) (t : Transaction) : Presented := ⟨c, t, (decodeMux t).pack⟩

/-- Over cycles that count and without reset the observation grows by what is due, cycle by cycle (R88, R100). -/
theorem wholeCycles_observed {n : Nat} {s : State} (hobserving : s.observing = true)
    (hrst : ∀ k < n, (s.portAt k).rst = .low) :
    (State.wholeCycles n s).observed =
      s.observed ++ (List.range n).filterMap fun k => (s.due k).map (presentedAt (s.cycle + k)) := by
  induction n with
  | zero => exact (List.append_nil _).symm
  | succ n ih =>
    have hrst' : ∀ k < n, (s.portAt k).rst = .low := fun k hk => hrst k (Nat.lt_succ_of_lt hk)
    have hdue : (State.wholeCycles n s).due 0 = s.due n := due_wholeCycles hrst' 0
    rw [wholeCycles_succ, List.range_succ, List.filterMap_append, ← List.append_assoc, ← ih hrst']
    cases h : s.due n with
    | none =>
      rw [wholeCycle_observed_of_idle (decoding_of_due_none (hdue.trans h))]
      simp [h]
    | some t =>
      obtain ⟨hdecoding, hoperands⟩ := output_of_due (hdue.trans h)
      rw [wholeCycle_observed_of_decoding hdecoding (wholeCycles_observing hobserving), hoperands, wholeCycles_cycle]
      simp [h, presentedAt]

/-- A list with its indices, as the positions up to its length. -/
theorem zipIdx_eq_map_range {α : Type} (l : List α) (d : α) :
    l.zipIdx = (List.range l.length).map fun k => (l.getD k d, k) := by
  refine List.ext_getElem (by simp) fun k hk _ => ?_
  have hk : k < l.length := by simpa using hk
  simp [hk]

/-- From an empty pipeline only what the port accepts comes to be due, after as many cycles as there are stages (R88). -/
theorem due_of_empty {s : State} (h : ∀ st ∈ s.stages, st.v = false) {k : Nat} (hk : k < s.stages.length) :
    s.due k = none := by
  rw [due_of_lt hk, Option.bind_eq_none_iff]
  intro st hst
  rw [Stage.item, h st (List.mem_of_getElem? hst)]
  rfl

/-- When nothing is due any more and none of the port values to come is valid, the run has ended (R100). -/
theorem runEnded_of_due_none {s : State} (hvalid : s.ValidAccepted) (hdue : ∀ k < s.stages.length, s.due k = none)
    (hport : ∀ k, (s.portAt k).inValid = .low) : s.runEnded = true := by
  refine runEnded_iff.2 ⟨fun st hst => ?_, fun q hq => ?_⟩
  · obtain ⟨i, hi, rfl⟩ := List.getElem_of_mem hst
    have hitem := hdue (s.stages.length - 1 - i) (by omega)
    rw [due_of_lt (by omega), show s.stages.length - 1 - (s.stages.length - 1 - i) = i by omega,
      List.getElem?_eq_getElem hi, Option.bind_some, Stage.item] at hitem
    by_contra hv
    rw [Bool.not_eq_false] at hv
    simp [hv, hvalid _ hst hv] at hitem
  · obtain ⟨i, hi, rfl⟩ := List.getElem_of_mem hq
    have := hport i
    rwa [State.portAt, List.getD_eq_getElem _ _ hi] at this

/-- Past the queue the ports are idle (R99). -/
theorem portAt_of_ge {s : State} {k : Nat} (h : (s.port :: s.pending).length ≤ k) : s.portAt k = PortIn.idle :=
  List.getD_eq_default _ _ h

/-- Without reset a port offers its transaction exactly with `in_valid = 1` (R85). -/
theorem PortIn.item_of_low {q : PortIn} (h : q.rst = .low) :
    q.item = if q.inValid = .high then some q.txn else none := by
  simp [PortIn.item, h]

/-- Settles O51: what is due is what the port accepts, as many cycles later as there are stages, and then nothing. -/
theorem streamDecodesInOrder : Obligations.StreamDecodesInOrder := by
  intro s p hpoint hp hinvalid hobserving hports
  have hport : ∀ k, (s.portAt k).known = true ∧ (s.portAt k).rst = .low := fun k => by
    rcases Nat.lt_or_ge k (s.port :: s.pending).length with hk | hk
    · rw [State.portAt, List.getD_eq_getElem _ _ hk]
      exact hports _ (List.getElem_mem hk)
    · rw [portAt_of_ge hk]
      exact ⟨rfl, rfl⟩
  have hrst : ∀ n, ∀ k < n, (s.portAt k).rst = .low := fun _ k _ => (hport k).2
  have hdue : ∀ k, s.due (p + k) = if (s.portAt k).inValid = .high then some (s.portAt k).txn else none := fun k => by
    rw [due_of_ge (by omega), hp, Nat.add_sub_cancel_left, PortIn.item_of_low (hport k).2]
  refine ⟨_, runCycles_eq hpoint fun k _ => (hport k).1, ?observed, ?ended⟩
  case observed =>
    rw [wholeCycles_observed hobserving (hrst _), Nat.add_comm _ p, List.range_add, List.filterMap_append,
      zipIdx_eq_map_range _ PortIn.idle, List.filterMap_map, List.filterMap_map]
    have hfirst : (List.range p).filterMap (fun k => (s.due k).map (presentedAt (s.cycle + k))) = [] := by
      refine List.filterMap_eq_nil_iff.2 fun k hk => ?_
      rw [due_of_empty hinvalid (hp ▸ List.mem_range.1 hk)]
      rfl
    rw [hfirst, List.nil_append]
    congr 2
    funext k
    rw [Function.comp_apply, Function.comp_apply, hdue, ← Nat.add_assoc, Nat.add_right_comm]
    split
    · next hvalid => exact (if_pos hvalid).symm
    · next hvalid => exact (if_neg hvalid).symm
  case ended =>
    refine runEnded_of_due_none (wholeCycles_validAccepted fun st hst hv => ?_) (fun k hk => ?_) fun k => ?_
    · rw [hinvalid st hst] at hv
      cases hv
    · rw [due_wholeCycles (hrst _), Nat.add_right_comm, Nat.add_comm _ p, hdue,
        portAt_of_ge (Nat.le_add_right _ _)]
      rfl
    · rw [portAt_wholeCycles, portAt_of_ge (by omega)]
      rfl

end Sys2Proof.Machine

/-! SUPPORT. The host's side (70_reset_and_hazards.md R95, 30_encoding.md R44): what is driven for a frame, and the bytes of a
frame written from its layers read back as its fields. -/

namespace Sys2Proof.Machine

/-- Byte `i` of the window driven for a frame is the frame's byte `i` (R95 duty 1). -/
theorem byte_transactionOf (frame : List Byte) {i : Nat} (h : i < 94) :
    (transactionOf frame).byte i = frame.getD i 0#8 :=
  byte_windowOfBytes _ _ h

/-- The length driven for a frame that can be presented is its own (R95 duty 2). -/
theorem len_transactionOf {frame : List Byte} (h : frame.length ≤ 65535) :
    (transactionOf frame).len.toNat = frame.length :=
  (BitVec.toNat_ofNat _ _).trans (Nat.mod_eq_of_lt (Nat.lt_succ_of_le h))

/-- Settles O54: the length fits, each lane holds its byte, and a longer frame is refused. -/
theorem frameIsDrivenInItsLanes : Obligations.FrameIsDrivenInItsLanes := by
  refine fun frame => ⟨fun hlen => ⟨_, if_neg (Nat.not_lt.2 hlen), rfl, len_transactionOf hlen, fun i b hi hb => ?_⟩,
    fun hlen => if_pos hlen⟩
  rw [byte_transactionOf frame hi, List.getD_eq_getElem?_getD, hb]
  rfl

/-- The frame holds the bytes `bs` from byte `a` on. -/
def Holds (frame : List Byte) (a : Nat) (bs : List Byte) : Prop := bs <+: frame.drop a

/-- A frame holds two stretches of bytes one after the other. -/
theorem Holds.append {frame xs ys : List Byte} {a : Nat} (n : Nat) (hn : xs.length = n) (h : Holds frame a (xs ++ ys)) :
    Holds frame a xs ∧ Holds frame (a + n) ys := by
  obtain ⟨rest, hrest⟩ := h
  refine ⟨⟨ys ++ rest, by rw [← List.append_assoc, hrest]⟩, ⟨rest, ?_⟩⟩
  rw [← hn, ← List.drop_drop, ← hrest, List.append_assoc, List.drop_left]

section Fields
variable {frame : List Byte} {a : Nat}

/-- A byte that the frame holds inside the window is read there (20_memory.md R20). -/
theorem byte_of_holds {b : Byte} {bs : List Byte} (h : Holds frame a (b :: bs)) (ha : a + 1 ≤ 94) :
    (transactionOf frame).byte a = b := by
  obtain ⟨rest, hrest⟩ := h
  have hget : frame[a]? = some b := by
    rw [← Nat.add_zero a, ← List.getElem?_drop, ← hrest]
    rfl
  rw [byte_transactionOf frame ha, List.getD_eq_getElem?_getD, hget]
  rfl

/-- The two parts of a value, put together again. -/
theorem extractLsb'_append_self {m n : Nat} (v : BitVec (m + n)) : v.extractLsb' n m ++ v.extractLsb' 0 n = v := by
  apply BitVec.eq_of_toNat_eq
  have hlt : v.toNat / 2 ^ n < 2 ^ m := Nat.div_lt_of_lt_mul (by rw [Nat.mul_comm, ← Nat.pow_add]; exact v.isLt)
  rw [append_toNat, BitVec.extractLsb'_toNat, BitVec.extractLsb'_toNat, Nat.shiftRight_eq_div_pow, Nat.shiftRight_zero,
    Nat.mod_eq_of_lt hlt, Nat.div_add_mod']

/-- A 16-bit value that the frame holds is read there. -/
theorem bytes2_of_holds {v : BitVec 16} (h : Holds frame a (be16 v)) (ha : a + 2 ≤ 94) :
    bytes2 (transactionOf frame) a = v := by
  obtain ⟨hhigh, hlow⟩ := Holds.append (xs := [_]) 1 rfl h
  rw [bytes2, byte_of_holds hhigh (by omega), byte_of_holds hlow ha]
  exact extractLsb'_append_self (m := 8) (n := 8) v

/-- A 32-bit value likewise. -/
theorem bytes4_of_holds {v : BitVec 32} (h : Holds frame a (be32 v)) (ha : a + 4 ≤ 94) :
    bytes4 (transactionOf frame) a = v := by
  obtain ⟨hhigh, hlow⟩ := h.append 2 rfl
  rw [bytes4, bytes2_of_holds hhigh (by omega), bytes2_of_holds hlow (by omega)]
  exact extractLsb'_append_self (m := 16) (n := 16) v

/-- A 6-byte value split after its second byte. -/
theorem bytes6_eq_bytes2_append (t : Transaction) (a : Nat) : bytes6 t a = bytes2 t a ++ bytes4 t (a + 2) :=
  BitVec.append_assoc (x₁ := bytes2 t a) (x₂ := bytes2 t (a + 2)) (x₃ := bytes2 t (a + 4))

/-- A 48-bit value likewise. -/
theorem bytes6_of_holds {v : BitVec 48} (h : Holds frame a (be48 v)) (ha : a + 6 ≤ 94) :
    bytes6 (transactionOf frame) a = v := by
  obtain ⟨hhigh, hlow⟩ := h.append 2 rfl
  rw [bytes6_eq_bytes2_append, bytes2_of_holds hhigh (by omega), bytes4_of_holds hlow (by omega)]
  exact extractLsb'_append_self (m := 16) (n := 32) v

end Fields

/-- IPv4 byte 0 written from its nibbles has them (30_encoding.md R37). -/
theorem ipVersion_append (ver ihl : BitVec 4) : ipVersion (ver ++ ihl) = ver := by
  apply BitVec.eq_of_toNat_eq
  rw [ipVersion_toNat, append_toNat]
  omega

theorem ipIhl_append (ver ihl : BitVec 4) : ipIhl (ver ++ ihl) = ihl := by
  apply BitVec.eq_of_toNat_eq
  rw [ipIhl_toNat, append_toNat]
  omega

/-- The options of a legal IHL fill the header that it declares (R44). -/
theorem optionBytes_length {h : Ipv4Layer} {os : List Byte} (hihl : 5 ≤ h.ihl.toNat) (hos : optionBytes h = some os) :
    os.length = 4 * h.ihl.toNat - 20 := by
  rw [optionBytes, if_neg (Nat.not_lt.2 hihl)] at hos
  split at hos
  · cases hos
    exact List.length_replicate
  · split at hos
    · next hlen =>
      cases hos
      exact hlen
    · cases hos

/-- The bytes of an IPv4 layer whose protocol is known (R44). -/
theorem ipv4Bytes_eq_some {h : Ipv4Layer} {later : List Layer} {n : Nat} {bs : List Byte} {proto : Byte}
    (hproto : (h.proto <|> defaultProto later) = some proto) (hbs : ipv4Bytes h later n = some bs) :
    ∃ os, optionBytes h = some os ∧
      bs = [h.ver ++ h.ihl, h.tos] ++ be16 (h.tlen.getD (BitVec.ofNat 16 (4 * h.ihl.toNat + n))) ++ be16 h.id ++
        be16 h.frag ++ [h.ttl, proto] ++ be16 h.csum ++ be32 h.src ++ be32 h.dst ++ os := by
  rw [ipv4Bytes, hproto] at hbs
  cases hos : optionBytes h with
  | none => simp [hos] at hbs
  | some os =>
    rw [hos] at hbs
    exact ⟨os, rfl, (Option.some.inj hbs).symm⟩

/-- A frame of an Ethernet and an IPv4 layer over later layers is their bytes in order (R44). -/
theorem layersBytes_eth_ipv4 {e : EthLayer} {h : Ipv4Layer} {later : List Layer} {frame rest : List Byte}
    (hrest : layersBytes later = some rest) (hframe : layersBytes (.eth e :: .ipv4 h :: later) = some frame) :
    ∃ bs, ipv4Bytes h later rest.length = some bs ∧ frame = ethBytes e ++ (bs ++ rest) := by
  simp only [layersBytes, hrest] at hframe
  cases hbs : ipv4Bytes h later rest.length with
  | none => simp [hbs] at hframe
  | some bs =>
    rw [hbs] at hframe
    exact ⟨bs, rfl, (Option.some.inj hframe).symm⟩

/-- The record after the headers of an Ethernet and an IPv4 layer, from their fields (41_ethernet.md R50, 42_ipv4.md R58). -/
def headerRecord (e : EthLayer) (h : Ipv4Layer) (proto : Byte) : Record :=
  { Record.zero with
    l2Status := .present, l3Status := .present
    ethDst := e.dst, ethSrc := e.src, ethType := e.type
    ipVersion := h.ver, ipIhl := h.ihl, ipTtl := h.ttl, ipProto := proto, ipSrc := h.src, ipDst := h.dst
    l4Offset := transportOffset h.ihl }

/-- What is read of a frame whose IPv4 header is whole: its layers' fields, and the later layers from the transport offset
on (R44, R50, R58). -/
structure HeadersRead (e : EthLayer) (h : Ipv4Layer) (proto : Byte) (rest frame : List Byte) : Prop where
  ipPresent : IpPresent (transactionOf frame)
  ihl : ipIhl ((transactionOf frame).byte 14) = h.ihl
  protocol : (transactionOf frame).byte 23 = proto
  record : ipRecord (transactionOf frame) = headerRecord e h proto
  later : Holds frame (14 + 4 * h.ihl.toNat) rest
  length : (transactionOf frame).len.toNat = 14 + 4 * h.ihl.toNat + rest.length

/-- A frame written from an Ethernet and an IPv4 layer of version 4 and legal IHL has its headers read as their fields. -/
theorem headersRead {e : EthLayer} {h : Ipv4Layer} {proto : Byte} {later : List Layer} {rest frame : List Byte}
    (htype : e.type = etherTypeIpv4) (hver : h.ver = versionIpv4) (hihl : 5 ≤ h.ihl.toNat)
    (hproto : (h.proto <|> defaultProto later) = some proto) (hrest : layersBytes later = some rest)
    (hframe : layersBytes (.eth e :: .ipv4 h :: later) = some frame) (hlen : frame.length ≤ 65535) :
    HeadersRead e h proto rest frame := by
  obtain ⟨bs, hbs, heq⟩ := layersBytes_eth_ipv4 hrest hframe
  obtain ⟨os, hos, rfl⟩ := ipv4Bytes_eq_some hproto hbs
  have hoslen := optionBytes_length hihl hos
  have hall : Holds frame 0 frame := ⟨[], List.append_nil _⟩
  rw [congrArg (Holds frame 0) heq] at hall
  simp only [ethBytes, List.append_assoc] at hall
  obtain ⟨hdst, hall⟩ := hall.append 6 rfl
  obtain ⟨hsrc, hall⟩ := hall.append 6 rfl
  obtain ⟨hethType, hall⟩ := hall.append 2 rfl
  obtain ⟨hb0, hall⟩ := hall.append 2 rfl
  obtain ⟨-, hall⟩ := hall.append 2 rfl
  obtain ⟨-, hall⟩ := hall.append 2 rfl
  obtain ⟨-, hall⟩ := hall.append 2 rfl
  obtain ⟨httl, hall⟩ := hall.append 2 rfl
  obtain ⟨-, hall⟩ := hall.append 2 rfl
  obtain ⟨hipSrc, hall⟩ := hall.append 4 rfl
  obtain ⟨hipDst, hall⟩ := hall.append 4 rfl
  obtain ⟨-, hall⟩ := hall.append _ hoslen
  obtain ⟨-, hprotocol⟩ := Holds.append (xs := [_]) 1 rfl httl
  have hdst : bytes6 (transactionOf frame) 0 = e.dst := bytes6_of_holds hdst (by omega)
  have hsrc : bytes6 (transactionOf frame) 6 = e.src := bytes6_of_holds hsrc (by omega)
  have hethType : bytes2 (transactionOf frame) 12 = e.type := bytes2_of_holds hethType (by omega)
  have hb0 : (transactionOf frame).byte 14 = h.ver ++ h.ihl := byte_of_holds hb0 (by omega)
  have httl : (transactionOf frame).byte 22 = h.ttl := byte_of_holds httl (by omega)
  have hprotocol : (transactionOf frame).byte 23 = proto := byte_of_holds hprotocol (by omega)
  have hipSrc : bytes4 (transactionOf frame) 26 = h.src := bytes4_of_holds hipSrc (by omega)
  have hipDst : bytes4 (transactionOf frame) 30 = h.dst := bytes4_of_holds hipDst (by omega)
  have hver14 : ipVersion ((transactionOf frame).byte 14) = h.ver := by rw [hb0, ipVersion_append]
  have hihl14 : ipIhl ((transactionOf frame).byte 14) = h.ihl := by rw [hb0, ipIhl_append]
  have hlength : (transactionOf frame).len.toNat = 14 + 4 * h.ihl.toNat + rest.length := by
    have := congrArg List.length heq
    simp [ethBytes, be16, be32, be48, hoslen] at this
    rw [len_transactionOf hlen]
    omega
  refine ⟨ipPresent_iff.2 ⟨⟨by omega, hethType.trans htype, hver14.trans hver⟩, hihl14.symm ▸ hihl, ?_⟩, hihl14,
    hprotocol, ?_, ?_, hlength⟩
  · rw [hihl14]
    omega
  · rw [ipRecord, ethRecord, headerRecord, hdst, hsrc, hethType, hver14, hihl14, httl, hprotocol, hipSrc, hipDst]
  · convert hall using 1
    omega

/-- Settles O55: below the headers the transport offset is where the TCP layer is written, with its 20 bytes. -/
theorem tcpFrameDecodesToItsFields : Obligations.TcpFrameDecodesToItsFields := by
  intro e h d payload frame htype hver hihl hproto hframe hlen
  have hdefault : (h.proto <|> defaultProto [.tcp d, .bytes payload]) = some protoTcp := by
    rcases hproto with hproto | hproto <;> rw [hproto] <;> rfl
  obtain ⟨hip, hihl14, hprotocol, hrecord, hlater, hlength⟩ := headersRead htype hver hihl hdefault rfl hframe hlen
  have hoff := transportOffset_toNat h.ihl
  have hmax := transportOffset_le h.ihl
  rw [← hoff] at hlater hlength
  simp only [tcpBytes, List.append_assoc] at hlater
  obtain ⟨hsport, hlater⟩ := hlater.append 2 rfl
  obtain ⟨hdport, hlater⟩ := hlater.append 2 rfl
  obtain ⟨-, hlater⟩ := hlater.append 4 rfl
  obtain ⟨-, hlater⟩ := hlater.append 4 rfl
  obtain ⟨-, hflags⟩ := Holds.append (xs := [_]) 1 rfl hlater
  have hroom : 14 + 4 * (ipIhl ((transactionOf frame).byte 14)).toNat + 20 ≤ (transactionOf frame).len.toNat := by
    rw [hihl14, hlength, hoff]
    simp [tcpBytes, be16, be32]
  rw [decodeFrame_of_outcome (.tcpHdr hip hprotocol hroom), hrecord, hihl14, bytes2_of_holds hsport (by omega),
    bytes2_of_holds hdport (by omega), byte_of_holds hflags (by omega), headerRecord, htype, hver]

/-- Settles O56: likewise where the UDP layer is written, with its 8 bytes. -/
theorem udpFrameDecodesToItsFields : Obligations.UdpFrameDecodesToItsFields := by
  intro e h d payload frame htype hver hihl hproto hframe hlen
  have hdefault : (h.proto <|> defaultProto [.udp d, .bytes payload]) = some protoUdp := by
    rcases hproto with hproto | hproto <;> rw [hproto] <;> rfl
  obtain ⟨hip, hihl14, hprotocol, hrecord, hlater, hlength⟩ := headersRead htype hver hihl hdefault rfl hframe hlen
  have hoff := transportOffset_toNat h.ihl
  have hmax := transportOffset_le h.ihl
  rw [← hoff] at hlater hlength
  simp only [udpBytes, List.append_assoc] at hlater
  obtain ⟨hsport, hlater⟩ := hlater.append 2 rfl
  obtain ⟨hdport, hlater⟩ := hlater.append 2 rfl
  obtain ⟨hudpLen, hlater⟩ := hlater.append 2 rfl
  obtain ⟨hcsum, -⟩ := hlater.append 2 rfl
  have hroom : 14 + 4 * (ipIhl ((transactionOf frame).byte 14)).toNat + 8 ≤ (transactionOf frame).len.toNat := by
    rw [hihl14, hlength, hoff]
    simp [udpBytes, be16]
  rw [decodeFrame_of_outcome (.udpHdr hip hprotocol hroom), hrecord, hihl14, bytes2_of_holds hsport (by omega),
    bytes2_of_holds hdport (by omega), bytes2_of_holds hudpLen (by omega), bytes2_of_holds hcsum (by omega),
    headerRecord, htype, hver, List.append_nil]

end Sys2Proof.Machine
